-- ==== Sys2Proof/Word.lean ====
section
/-! DEFINITION. The word types of the block: a command or register word (R100, R71), a byte (R33, R73),
a four-bit index operand (R100). -/

namespace Sys2Proof

/-- A 32-bit command word or window register (R71, R100). -/
abbrev Word := BitVec 32

/-- An 8-bit value: a brightness, an error code, a nesting depth, a byte of a register word. -/
abbrev Byte := BitVec 8

/-- A four-bit index operand of a command word (R100, fields `A` and `B`). -/
abbrev Nibble := BitVec 4

end Sys2Proof
end

