-- ==== Sys2Proof/Config.lean ====
section
/-! DEFINITION. The parameters of R8, the fixed constants of the same table, and what the outside of the
block may choose: which agent steps next and with what input (R80, R82, R216). -/

namespace Sys2Proof

/-- The two hardware revisions (R2). -/
inductive Revision where
  | rev5x5
  | rev3x9
deriving DecidableEq, Repr, Inhabited

/-- The open parameters of R8, held as plain data. No step writes them (R30). -/
structure Params where
  /-- `REVISION`. -/
  revision : Revision
  /-- `TIMER_FREQ`, ticks per second. -/
  timerFreq : Nat
  /-- `REFRESH_RATE`, frames per second. -/
  refreshRate : Nat
  /-- `LOGICAL_TO_HW` of `REV_3x9`: the hardware cell of each of the 25 logical cells, in row-major
  order. Not used for `REV_5x5`, whose map is the identity (R136). -/
  map3x9 : List (Nat × Nat)
  /-- `COL_ON_LEVEL`: the electrical level at which a column pin lights its LEDs. -/
  colOnLevel : Bool
  /-- `BTN_ACTIVE_LEVEL`: the electrical level at which a button input reads "pressed". -/
  btnActiveLevel : Bool
  /-- `BLOCK_BASE`: the base address of the register window. -/
  blockBase : Nat
deriving DecidableEq, Repr

/-- The two push-buttons: 0 is A, 1 is B (R8 `NB`). -/
inductive ButtonId where
  | a
  | b
deriving DecidableEq, Repr, Inhabited

/-- The five agents of R4. -/
inductive Agent where
  | timer
  | seq
  | sampler
  | host
  | env
deriving DecidableEq, Repr, Inhabited

/-- The two accesses of the `HOST` agent (R72): an address, a width in bytes, and for a write a value. -/
inductive HostOp where
  | read (addr n : Nat)
  | write (addr n : Nat) (v : Word)
deriving DecidableEq, Repr, Inhabited

/-- One entry of the order of agent steps (R80 and R82 leave that order free), with the free inputs of
the step: the access of a `HOST` step, the new level of an `ENV` step (R216), the drawn raw inputs of a
reset (R52, R300; reset is an event, not an agent's step). -/
inductive Choice where
  | timer
  | seq
  | sampler
  | host (op : HostOp)
  | env (k : ButtonId) (v : Bool)
  | reset (rawA rawB : Bool)
deriving DecidableEq, Repr, Inhabited

/-- The agent a choice names; none for the reset event. -/
def Choice.agent : Choice → Option Agent
  | .timer => some .timer
  | .seq => some .seq
  | .sampler => some .sampler
  | .host _ => some .host
  | .env _ _ => some .env
  | .reset _ _ => none

/-- FREE VALUE (no body): the `n`-th choice the outside of the block makes when the state's own agenda
lists none. Nothing can be proved about it, so a statement about every state holds for every order of the
agents' steps and every input. -/
opaque Config.anyChoice : Nat → Choice

/-- `LR` = `LC` = 5 (R8). -/
def imageSize : Nat := 5

/-- `SIGMA_MAX` (R8). -/
def sigmaMax : Nat := 12

/-- `PRESS_TH`: a press latches when sigma is above it (R8). -/
def pressThreshold : Nat := 8

/-- `RELEASE_TH`: a release unlatches when sigma is below it (R8). -/
def releaseThreshold : Nat := 2

/-- `NH`, the number of consumer handle slots (R8). -/
def handleCount : Nat := 4

/-- `2^CS_WIDTH - 1`, the deepest nesting of critical sections (R8, R241). -/
def csDepthMax : Nat := 255

/-- The window's size in bytes (R70). -/
def windowBytes : Nat := 0x40

/-- The parameter set of the machine at `State.reset`: `REV_5x5` with the default rates of R8. The three
open values without a default (polarities, base address) are a DESIGN CHOICE (log entry 2). -/
def defaultParams : Params :=
  { revision := .rev5x5, timerFreq := 1000000, refreshRate := 60, map3x9 := [],
    colOnLevel := true, btnActiveLevel := true, blockBase := 0 }

end Sys2Proof
end

