-- ==== Sys2Proof/Machine/Geometry.lean ====
section
/-! DEFINITION. What the parameters determine (R8, R9, R35, R136): rows, columns, the tick constants, the
logical-to-hardware cell map, and the schedule of the all-zero image. -/

namespace Sys2Proof

/-- `R`, the number of hardware rows (R2, R8). -/
def Params.rows (p : Params) : Nat :=
  match p.revision with
  | .rev5x5 => 5
  | .rev3x9 => 3

/-- `C`, the number of hardware columns (R2, R8). -/
def Params.cols (p : Params) : Nat :=
  match p.revision with
  | .rev5x5 => 5
  | .rev3x9 => 9

/-- `TPR`, ticks per row (R9). -/
def Params.tpr (p : Params) : Nat := p.timerFreq / (p.refreshRate * p.rows)

/-- `TPF`, ticks per frame (R9). -/
def Params.tpf (p : Params) : Nat := p.tpr * p.rows

/-- The 25 logical cells `(lr, lc)` in row-major order (R130). -/
def logicalCells : List (Fin 5 × Fin 5) :=
  (List.finRange 5).flatMap fun lr => (List.finRange 5).map fun lc => (lr, lc)

/-- `LOGICAL_TO_HW`: the hardware cell of a logical cell (R8, R136). For `REV_3x9` it is the parameter; a
cell the parameter does not list has no hardware cell and makes the parameter set ill-formed. -/
def Params.logicalToHw (p : Params) (cell : Fin 5 × Fin 5) : Nat × Nat :=
  match p.revision with
  | .rev5x5 => (cell.1.val, cell.2.val)
  | .rev3x9 => p.map3x9.getD (5 * cell.1.val + cell.2.val) (p.rows, p.cols)

/-- One schedule entry (R34): the tick of the row window at which a column is turned off. -/
structure Entry where
  time : BitVec 32
  col : Nat
deriving DecidableEq, Repr, Inhabited

/-- A row schedule: the columns of one row in the order they are turned off (R34). -/
abbrev RowSchedule := List Entry

/-- A schedule: one row schedule per hardware row (R34). -/
abbrev Schedule := List RowSchedule

/-- `ZERO_SCHED` (R35). -/
def zeroSched (p : Params) : Schedule :=
  List.replicate p.rows ((List.range p.cols).map fun i => { time := 0, col := i })

/-- The row schedule of row `r`; empty where the schedule has no such row. -/
def schedRow (sched : Schedule) (r : Nat) : RowSchedule := sched.getD r []

end Sys2Proof
end

