-- ==== Sys2Proof/Machine/State.lean ====
section
/-! DEFINITION. The state of the block (10_state.md, R33 to R60), the reasons a step may stop, and reset
(R300, R301). -/

namespace Sys2Proof.Machine

open Sys2Proof

/-- The phase of the display interrupt handler (R50). -/
inductive SeqPhase where
  /-- No handler is running. -/
  | idle
  /-- About to run step 1. -/
  | entry
  /-- About to run steps 2 to 4. -/
  | main
  /-- About to run step 5. -/
  | program
  /-- About to run step 6. -/
  | check
deriving DecidableEq, Repr, Inhabited

/-- A command's error code by name (R272); its number is `ErrorCode.code` in Ops.lean. -/
inductive ErrorCode where
  | none
  | resourceAlreadyClaimed
  | hwContractViolation
  | illegalCommand
  | operandRange
  | notInitialised
  | csDepthRange
deriving DecidableEq, Repr, Inhabited

/-- Why the block has stopped for good: the reason of a HardwareContractViolation (R273, R274). A step of
a block whose `FAULT` bit is set answers with it, because no agent then has a step (R60, R82; log entry 10). -/
inductive Fault where
  /-- Raised by the MAIN phase that derived a row `d ≥ R` (R169, R274). Safe: the spec's own stop. -/
  | rowOutOfRange
  /-- Raised after a step that left an invariant of R61 broken (R61, R274), and by a PROGRAM phase that
  finds no row or no entry to program (log entry 8). Safe: the machine stops where the spec has no run. -/
  | invariantBroken
  /-- The `FAULT` bit is set and no reason is recorded: only in a state no run reaches. Safe. -/
  | reasonUnrecorded
deriving DecidableEq, Repr, Inhabited

/-- Why a step has no meaning. -/
inductive Refusal where
  /-- No meaning has been written for the instruction. Safe. No arm of this model answers with it. -/
  | notModelled (mnemonic : String)
  /-- The parameter set is not well-formed (R10). Raised by every step. Safe: the spec refuses it. -/
  | illFormedParameters
  /-- A HOST access outside the register window (R70: not the block's; log entry 9). Safe. -/
  | accessOutsideWindow
  /-- A HOST access that is not 32 bits wide (R72). Safe: the spec gives it no step. -/
  | accessWidth
  /-- A HOST access that is not word-aligned in the window (R72). Safe: the spec gives it no step. -/
  | accessMisaligned
deriving DecidableEq, Repr

/-- The Image: a 5×5 grid of brightness values, `[row][column]` (R130). -/
abbrev Image := Vector (Vector Byte 5) 5

/-- The elements of one button (R210). -/
structure Button where
  /-- `RAW[k]`: the input reads "pressed" (R52). -/
  raw : Bool
  /-- `SIGMA[k]`: the accumulator, 0 to 12 (R53; its four-bit encoding is `Button.sigmaCode`, log entry 14). -/
  sigma : Nat
  /-- `LATCHED[k]` (R54). -/
  latched : Bool
  /-- `PRESS_COUNT[k]` (R55). -/
  pressCount : Word
deriving DecidableEq, Repr, Inhabited

/-- A consumer handle slot (R57). -/
structure Handle where
  /-- `VALID`. -/
  valid : Bool
  /-- `BTN`. -/
  btn : ButtonId
  /-- `LAST`. -/
  last : Word
deriving DecidableEq, Repr, Inhabited

/-- The state of the block, with the parameters it is a function of and the model's own four fields. -/
structure State where
  /-- The parameter set (R8, R30): configuration, written by no step (log entry 6). -/
  params : Params
  /-- `STAGE`: the image the host is building (R33). -/
  stage : Image
  /-- `PENDING`: the schedule most recently published (R34). -/
  pending : Schedule
  /-- `ACTIVE`: the schedule driving the hardware (R34). -/
  active : Schedule
  /-- `DISP_INIT` (R36). -/
  dispInit : Bool
  /-- `ROW_PIN`: one bit per hardware row (R37). -/
  rowPin : List Bool
  /-- `COL_ON`: one bit per hardware column (R38). -/
  colOn : List Bool
  /-- `CUR_ROW`; `none` is NONE (R40; its four-bit encoding is `State.curRowCode`, log entry 14). -/
  curRow : Option Nat
  /-- `STEP_IDX` (R41; its four-bit encoding is `State.stepIdxCode`, log entry 14). -/
  stepIdx : Nat
  /-- `TCOUNT` (R42). -/
  tcount : BitVec 32
  /-- `TRUN` (R43). -/
  trun : Bool
  /-- `CC0` (R44). -/
  cc0 : BitVec 32
  /-- `CC1` (R44). -/
  cc1 : BitVec 32
  /-- `EV0` (R45). -/
  ev0 : Bool
  /-- `EV1` (R45). -/
  ev1 : Bool
  /-- `INTEN0` (R46). -/
  inten0 : Bool
  /-- `INTEN1` (R46). -/
  inten1 : Bool
  /-- `SHORT1_CLEAR` (R47). -/
  short1Clear : Bool
  /-- `SWPEND` (R48). -/
  swpend : Bool
  /-- `SEQ_PHASE` (R50). -/
  seqPhase : SeqPhase
  /-- `CS_DEPTH` (R51). -/
  csDepth : BitVec 8
  /-- Button A: `RAW[0]`, `SIGMA[0]`, `LATCHED[0]`, `PRESS_COUNT[0]` (R52 to R55). -/
  btnA : Button
  /-- Button B: `RAW[1]`, `SIGMA[1]`, `LATCHED[1]`, `PRESS_COUNT[1]` (R52 to R55). -/
  btnB : Button
  /-- `SAMPLER_RUN` (R56). -/
  samplerRun : Bool
  /-- `HANDLE` (R57). -/
  handles : Vector Handle 4
  /-- `RESULT` (R58). -/
  result : Word
  /-- `STATUS_ERR` (R59). -/
  statusErr : Byte
  /-- `FAULT` (R60). -/
  fault : Bool
  /-- The reason `info` a model keeps of a fault (R273; log entry 10). -/
  faultReason : Option Fault
  /-- MODEL'S OWN: the word the last admitted read returned to the HOST (R74; log entry 4). -/
  readData : Option Word
  /-- MODEL'S OWN: the choices already made about the coming steps, next one first (log entry 1). -/
  agenda : List Choice
  /-- MODEL'S OWN: how many choices have been drawn from `Config.anyChoice` (log entry 1). -/
  draws : Nat
deriving DecidableEq, Repr

/-- The all-zero image (R33). -/
def zeroImage : Image := Vector.replicate 5 (Vector.replicate 5 0)

/-- A button after reset, its raw input as drawn (R52 to R55, R301). -/
def resetButton (raw : Bool) : Button :=
  { raw := raw, sigma := 0, latched := false, pressCount := 0 }

/-- An unused handle slot (R57). -/
def resetHandle : Handle := { valid := false, btn := .a, last := 0 }

/-- The block right after reset (R301), for a parameter set and the drawn raw inputs (R52). -/
def State.resetWith (p : Params) (rawA rawB : Bool) : State where
  params := p
  stage := zeroImage
  pending := zeroSched p
  active := zeroSched p
  dispInit := false
  rowPin := List.replicate p.rows false
  colOn := List.replicate p.cols false
  curRow := none
  stepIdx := 0
  tcount := 0
  trun := false
  cc0 := 0
  cc1 := 0
  ev0 := false
  ev1 := false
  inten0 := false
  inten1 := false
  short1Clear := false
  swpend := false
  seqPhase := .idle
  csDepth := 0
  btnA := resetButton rawA
  btnB := resetButton rawB
  samplerRun := false
  handles := Vector.replicate 4 resetHandle
  result := 0
  statusErr := 0
  fault := false
  faultReason := none
  readData := none
  agenda := []
  draws := 0

/-- The machine right after reset: the default parameters, both raw inputs inactive. The parameter values
without a default and the raw inputs are a DESIGN CHOICE (log entries 2 and 3). -/
def State.reset : State := State.resetWith defaultParams false false

end Sys2Proof.Machine
end

