-- ==== Sys2Proof/Machine/Ops.lean ====
section
/-! DEFINITION. The shared operations: how a command ends (R58, R59, R110), how an error and a fault are
taken (R271, R273), how the interrupt is entered and returned from (R278, R279), the image and button
accessors, and reset as an event (R300). -/

namespace Sys2Proof.Machine

open Sys2Proof

/-! ### Command end, error and fault -/

/-- The number of an error code (R272). -/
def ErrorCode.code : ErrorCode → Byte
  | .none => 0
  | .resourceAlreadyClaimed => 1
  | .hwContractViolation => 2
  | .illegalCommand => 3
  | .operandRange => 4
  | .notInitialised => 5
  | .csDepthRange => 6

/-- A command that succeeds ends so: `RESULT` its answer, `STATUS_ERR` 0 (R110). -/
def State.complete (s : State) (answer : Word) : State :=
  { s with result := answer, statusErr := ErrorCode.none.code }

/-- `raise CmdError(code)` (R271): the code is recorded, `RESULT` is 0, nothing else changes. -/
def State.cmdError (s : State) (e : ErrorCode) : State :=
  { s with statusErr := e.code, result := 0 }

/-- `raise Fault(info)` (R273): `FAULT` 1, `STATUS_ERR` 2, the reason kept, nothing else changes. -/
def State.raiseFault (s : State) (info : Fault) : State :=
  { s with fault := true, statusErr := ErrorCode.hwContractViolation.code, faultReason := some info }

/-- The reason a stopped block answers with (log entry 10). -/
def State.stopReason (s : State) : Fault := s.faultReason.getD .reasonUnrecorded

/-! ### Interrupt entry and return (R278, R279) -/

/-- Interrupt entry, the take step: it saves nothing (R166, R278). -/
def State.interruptEntry (s : State) : State := { s with seqPhase := .entry }

/-- Return from the interrupt: CHECK to IDLE, restoring nothing (R172, R279). -/
def State.interruptReturn (s : State) : State := { s with seqPhase := .idle }

/-- The re-invocation: CHECK to ENTRY, a jump with no stack (R172, R279, R311). -/
def State.interruptReinvoke (s : State) : State := { s with seqPhase := .entry }

/-! ### The image (R130) -/

/-- `M[row][col]`. -/
def imageGet (m : Image) (row col : Fin 5) : Byte := m[row][col]

/-- `M` with `M[row][col] = b`. -/
def imageSet (m : Image) (row col : Fin 5) (b : Byte) : Image :=
  m.set row (m[row].set col b)

/-- `M` shifted left by `n` columns (R134). -/
def imageShiftLeft (m : Image) (n : Nat) : Image :=
  Vector.ofFn fun row => Vector.ofFn fun col : Fin 5 =>
    if h : col.val + n < 5 then imageGet m row ⟨col.val + n, h⟩ else 0

/-! ### Buttons and handles -/

/-- The elements of button `k`. -/
def State.button (s : State) (k : ButtonId) : Button :=
  match k with
  | .a => s.btnA
  | .b => s.btnB

/-- The state with button `k`'s elements replaced. -/
def State.setButton (s : State) (k : ButtonId) (b : Button) : State :=
  match k with
  | .a => { s with btnA := b }
  | .b => { s with btnB := b }

/-- `HANDLE[h]`. -/
def State.handle (s : State) (h : Fin 4) : Handle := s.handles[h]

/-- The state with `HANDLE[h]` replaced. -/
def State.setHandle (s : State) (h : Fin 4) (x : Handle) : State :=
  { s with handles := s.handles.set h x }

/-! ### Bits -/

/-- The number whose bit `i` is element `i` of the list. -/
def bitsToNat : List Bool → Nat
  | [] => 0
  | b :: bs => b.toNat + 2 * bitsToNat bs

/-- The word whose bit `i` is element `i` of the list. -/
def bitsToWord (bs : List Bool) : Word := BitVec.ofNat 32 (bitsToNat bs)

/-- `zext_32` of one bit. -/
def boolWord (b : Bool) : Word := if b then 1 else 0

/-! ### The agenda and reset -/

/-- The next choice: the agenda's first, or the free draw where the agenda lists none. -/
def State.nextChoice (s : State) : Choice :=
  match s.agenda with
  | [] => Config.anyChoice s.draws
  | c :: _ => c

/-- The state once its next choice has been taken. -/
def State.dropChoice (s : State) : State :=
  match s.agenda with
  | [] => { s with draws := s.draws + 1 }
  | _ :: rest => { s with agenda := rest }

/-- The state with a choice put back, because another agent steps before it. -/
def State.putBack (s : State) (c : Choice) : State := { s with agenda := c :: s.agenda }

/-- Reset as an event (R300): every element at its reset value, the raw inputs drawn, the parameters as
they are. What the HOST last read, the agenda and the draw counter are the outside's, not the block's, and
stay (log entry 11). -/
def State.resetEvent (s : State) (rawA rawB : Bool) : State :=
  { State.resetWith s.params rawA rawB with
    readData := s.readData, agenda := s.agenda, draws := s.draws }

end Sys2Proof.Machine
end

