-- ==== Sys2Proof/Machine/Flags.lean ====
section
/-! DEFINITION. The derived signals and flag computations: the interrupt request (R49), the take condition
and the agent enables (R82), the compare-match flags (R165), the `STATUS` word (R77), the pin views (R78)
and the encodings of the small state elements (R40, R41, R50, R53). -/

namespace Sys2Proof.Machine

open Sys2Proof

/-- `IRQ_LINE` (R49). -/
def State.irqLine (s : State) : Bool := (s.ev0 && s.inten0) || (s.ev1 && s.inten1) || s.swpend

/-- The handler is not running. -/
def State.seqIdle (s : State) : Bool := s.seqPhase == .idle

/-- No critical section is active (R51). -/
def State.unmasked (s : State) : Bool := s.csDepth == 0

/-- `TAKE` (R82). -/
def State.take (s : State) : Bool := s.seqIdle && s.irqLine && s.unmasked

/-- The table of R82: the agent has a step. -/
def State.enabled (s : State) : Agent → Bool
  | .timer => !s.fault && s.trun
  | .env => !s.fault
  | .seq => !s.fault && (s.take || !s.seqIdle)
  | .host => !s.fault && (s.seqIdle && !s.take)
  | .sampler => !s.fault && (s.samplerRun && s.unmasked && s.seqIdle && !s.take)

/-- The incremented counter value of a tick (R165). -/
def State.nextCount (s : State) : BitVec 32 := s.tcount + 1

/-- `EV0` after a tick (R165). -/
def State.ev0AfterTick (s : State) : Bool := s.ev0 || s.nextCount == s.cc0

/-- `EV1` after a tick (R165). -/
def State.ev1AfterTick (s : State) : Bool := s.ev1 || s.nextCount == s.cc1

/-- A tick clears the counter (R47, R165). -/
def State.clearsCount (s : State) : Bool := s.nextCount == s.cc1 && s.short1Clear

/-- The `STATUS` word (R77). -/
def State.statusWord (s : State) : Word :=
  (0 : BitVec 8) ++ s.csDepth ++ (0 : BitVec 5) ++ BitVec.ofBool s.fault ++ BitVec.ofBool s.samplerRun
    ++ BitVec.ofBool s.dispInit ++ s.statusErr

/-- The `ROW_OUT` word (R78). -/
def State.rowOut (s : State) : Word :=
  if s.dispInit then bitsToWord (s.rowPin.take s.params.rows) else 0

/-- The `COL_OUT` word (R78). -/
def State.colOut (s : State) : Word :=
  if s.dispInit then bitsToWord (s.colOn.take s.params.cols) else 0

/-- The three-bit encoding of `SEQ_PHASE` (R50). -/
def SeqPhase.code : SeqPhase → BitVec 3
  | .idle => 0
  | .entry => 1
  | .main => 2
  | .program => 3
  | .check => 4

/-- The four-bit encoding of `CUR_ROW`: NONE is the value R (R40). -/
def State.curRowCode (s : State) : BitVec 4 := BitVec.ofNat 4 (s.curRow.getD s.params.rows)

/-- The four-bit encoding of `STEP_IDX` (R41). -/
def State.stepIdxCode (s : State) : BitVec 4 := BitVec.ofNat 4 s.stepIdx

/-- The four-bit encoding of `SIGMA[k]` (R53). -/
def Button.sigmaCode (b : Button) : BitVec 4 := BitVec.ofNat 4 b.sigma

end Sys2Proof.Machine
end

