-- ==== Sys2Proof/Machine/Contract.lean ====
section
/-! DEFINITION. The invariants of R61 as a check of a state, and the fault a state that breaks one of them
raises after a step (R61, R274). -/

namespace Sys2Proof.Machine

open Sys2Proof

/-- The pin arrays have one bit per row and per column (R37, R38); counted with R61 (log entry 7). -/
def State.shapeOk (s : State) : Bool :=
  decide (s.rowPin.length = s.params.rows ∧ s.colOn.length = s.params.cols)

/-- R61 (a): at most one `ROW_PIN[r]` is 1, and if one is, `r = CUR_ROW`. -/
def State.pinsOk (s : State) : Bool :=
  decide (∀ r < s.rowPin.length, s.rowPin.getD r false = true → s.curRow = some r)

/-- R61 (b): `STEP_IDX ≤ C`. -/
def State.stepIdxOk (s : State) : Bool := decide (s.stepIdx ≤ s.params.cols)

/-- R61 (c): `SIGMA[k]` in [0, 12]. -/
def State.sigmaOk (s : State) : Bool :=
  decide (s.btnA.sigma ≤ sigmaMax ∧ s.btnB.sigma ≤ sigmaMax)

/-- A row schedule as R34 and R61 (d) have it: every column exactly once, ascending by time, every time in
`[0, TPR]`. -/
def rowOk (p : Params) (row : RowSchedule) : Bool :=
  decide ((row.map Entry.col).Perm (List.range p.cols)) &&
    decide (row.Pairwise fun x y => x.time.toNat ≤ y.time.toNat) &&
    decide (∀ e ∈ row, e.time.toNat ≤ p.tpr)

/-- R61 (d) of one schedule, which has one row schedule per row. -/
def scheduleOk (p : Params) (sched : Schedule) : Bool :=
  decide (sched.length = p.rows) && sched.all (rowOk p)

/-- R61 (d). -/
def State.schedulesOk (s : State) : Bool :=
  scheduleOk s.params s.active && scheduleOk s.params s.pending

/-- R61 (e): once `DISP_INIT = 1`, `TCOUNT < TPF` and `CC1 = TPF`. -/
def State.timerOk (s : State) : Bool :=
  !s.dispInit || decide (s.tcount.toNat < s.params.tpf ∧ s.cc1.toNat = s.params.tpf)

/-- R61 (f): `SEQ_PHASE ≠ IDLE` implies `DISP_INIT = 1`. -/
def State.phaseOk (s : State) : Bool := s.seqIdle || s.dispInit

/-- Every invariant of R61 holds. -/
def State.contractHolds (s : State) : Bool :=
  s.shapeOk && s.pinsOk && s.stepIdxOk && s.sigmaOk && s.schedulesOk && s.timerOk && s.phaseOk

/-- The check after a step: a state that breaks an invariant of R61 is a HardwareContractViolation (R61,
R274; log entry 7). A state already faulted keeps its reason. -/
def State.settle (s : State) : State :=
  if s.fault || s.contractHolds then s else s.raiseFault .invariantBroken

end Sys2Proof.Machine
end

