-- ==== Sys2Proof/Machine/Operands.lean ====
section
/-! DEFINITION. The operand forms of the commands (R101): each field zero-extended, and the index it names
where it is below its bound (R110, second check). -/

namespace Sys2Proof.Machine

open Sys2Proof

/-- A row or column operand of an image command: an index below 5 (R132, R133). -/
def cellIndex (x : Nibble) : Option (Fin 5) :=
  if h : x.toNat < 5 then some ⟨x.toNat, h⟩ else none

/-- A handle operand: an index below `NH` (R211, R212, R213). -/
def handleIndex (x : Nibble) : Option (Fin 4) :=
  if h : x.toNat < 4 then some ⟨x.toNat, h⟩ else none

/-- A button operand: 0 is A, 1 is B (R211). -/
def buttonIndex (x : Nibble) : Option ButtonId :=
  match x.toNat with
  | 0 => some .a
  | 1 => some .b
  | _ => none

/-- A brightness operand (R101). -/
def brightnessOf (b : Byte) : Byte := b

/-- A shift count operand (R101). -/
def shiftCount (n : Byte) : Nat := n.toNat

/-- A brightness as an answer: `zext_32` (R133). -/
def brightnessWord (b : Byte) : Word := b.setWidth 32

end Sys2Proof.Machine
end

