-- ==== Sys2Proof/Machine/Button.lean ====
section
/-! DEFINITION. 42_button.md: the filter (R214), the `SAMPLER` step (R215), the `ENV` step (R216) and the
button commands (R211 to R213). -/

namespace Sys2Proof.Machine

open Sys2Proof

/-- The updated sigma of a sample (R214). -/
def nextSigma (raw : Bool) (sigma : Nat) : Nat :=
  if raw then min (sigma + 1) sigmaMax else sigma - 1

/-- `sample_update` of one button (R214): the thresholds are tested on the updated sigma. -/
def sampleUpdate (b : Button) : Button :=
  let sigma := nextSigma b.raw b.sigma
  if pressThreshold < sigma ∧ b.latched = false then
    { b with sigma := sigma, latched := true, pressCount := b.pressCount + 1 }
  else if sigma < releaseThreshold ∧ b.latched = true then
    { b with sigma := sigma, latched := false }
  else { b with sigma := sigma }

/-- The `SAMPLER` step: button A, then button B (R215). -/
def samplerStep (s : State) : State :=
  { s with btnA := sampleUpdate s.btnA, btnB := sampleUpdate s.btnB }

/-- The `ENV` step: a change of raw input `k` to `v`, both free (R216). -/
def envStep (k : ButtonId) (v : Bool) (s : State) : State :=
  s.setButton k { s.button k with raw := v }

/-- `BTN_NEW h, k` (R211). -/
def execBtnNew (h k : Nibble) (s : State) : Host.Outcome State Fault Refusal :=
  match handleIndex h, buttonIndex k with
  | some slot, some btn =>
    .next ({ s.setHandle slot { valid := true, btn := btn, last := (s.button btn).pressCount } with
      samplerRun := true }.complete 0)
  | _, _ => .next (s.cmdError .operandRange)

/-- `BTN_WAS_PRESSED h` (R212). -/
def execBtnWasPressed (h : Nibble) (s : State) : Host.Outcome State Fault Refusal :=
  match handleIndex h with
  | none => .next (s.cmdError .operandRange)
  | some slot =>
    let x := s.handle slot
    let v := (s.button x.btn).pressCount
    if x.valid = false then .next (s.cmdError .notInitialised)
    else if v ≠ x.last then .next ((s.setHandle slot { x with last := v }).complete 1)
    else .next (s.complete 0)

/-- `BTN_IS_PRESSED h` (R213). -/
def execBtnIsPressed (h : Nibble) (s : State) : Host.Outcome State Fault Refusal :=
  match handleIndex h with
  | none => .next (s.cmdError .operandRange)
  | some slot =>
    let x := s.handle slot
    if x.valid = false then .next (s.cmdError .notInitialised)
    else .next (s.complete (boolWord (s.button x.btn).raw))

end Sys2Proof.Machine
end

