-- ==== Sys2Proof/Machine/Control.lean ====
section
/-! DEFINITION. 43_control.md: `NOP` (R240), `CS_ENTER` (R241), `CS_EXIT` (R242). -/

namespace Sys2Proof.Machine

open Sys2Proof

/-- `NOP` (R240). -/
def execNop (s : State) : Host.Outcome State Fault Refusal := .next (s.complete 0)

/-- `CS_ENTER` (R241). -/
def execCsEnter (s : State) : Host.Outcome State Fault Refusal :=
  if s.csDepth.toNat < csDepthMax then .next ({ s with csDepth := s.csDepth + 1 }.complete 0)
  else .next (s.cmdError .csDepthRange)

/-- `CS_EXIT` (R242). -/
def execCsExit (s : State) : Host.Outcome State Fault Refusal :=
  if 0 < s.csDepth.toNat then .next ({ s with csDepth := s.csDepth - 1 }.complete 0)
  else .next (s.cmdError .csDepthRange)

end Sys2Proof.Machine
end

