-- ==== Sys2Proof/Machine/Image.lean ====
section
/-! DEFINITION. 40_image.md: the image commands (R131 to R134) and the Render Schedule Builder (R135 to
R137). -/

namespace Sys2Proof.Machine

open Sys2Proof

/-! ### The Render Schedule Builder -/

/-- `time_of(b)` (R135). -/
def timeOf (p : Params) (b : Byte) : Nat := p.tpr * b.toNat / 255

/-- The hardware brightness of cell `(r, c)`: that of the logical cell mapped to it, 0 where no logical
cell is (R136). -/
def hwCell (p : Params) (m : Image) (r c : Nat) : Byte :=
  match logicalCells.find? fun cell => p.logicalToHw cell == (r, c) with
  | some cell => imageGet m cell.1 cell.2
  | none => 0

/-- The entries of hardware row `r` in column order (R137). -/
def rowEntries (p : Params) (m : Image) (r : Nat) : RowSchedule :=
  (List.range p.cols).map fun c => { time := BitVec.ofNat 32 (timeOf p (hwCell p m r c)), col := c }

/-- A row's entries sorted ascending by time, entries of equal time staying in the order given: the sort
is stable (R137, R138). -/
def sortRow (row : RowSchedule) : RowSchedule :=
  row.insertionSort fun x y => x.time.toNat ≤ y.time.toNat

/-- `build_schedule(M)` (R137). -/
def buildSchedule (p : Params) (m : Image) : Schedule :=
  (List.range p.rows).map fun r => sortRow (rowEntries p m r)

/-! ### The commands -/

/-- `IMG_CLEAR` (R131). -/
def execImgClear (s : State) : Host.Outcome State Fault Refusal :=
  .next ({ s with stage := zeroImage }.complete 0)

/-- `IMG_WRITE row, col, b` (R132). -/
def execImgWrite (row col : Nibble) (b : Byte) (s : State) : Host.Outcome State Fault Refusal :=
  match cellIndex row, cellIndex col with
  | some r, some c => .next ({ s with stage := imageSet s.stage r c (brightnessOf b) }.complete 0)
  | _, _ => .next (s.cmdError .operandRange)

/-- `IMG_READ row, col` (R133). -/
def execImgRead (row col : Nibble) (s : State) : Host.Outcome State Fault Refusal :=
  match cellIndex row, cellIndex col with
  | some r, some c => .next (s.complete (brightnessWord (imageGet s.stage r c)))
  | _, _ => .next (s.cmdError .operandRange)

/-- `IMG_SHIFT_LEFT n` (R134). -/
def execImgShiftLeft (n : Byte) (s : State) : Host.Outcome State Fault Refusal :=
  .next ({ s with stage := imageShiftLeft s.stage (shiftCount n) }.complete 0)

end Sys2Proof.Machine
end

