-- ==== Sys2Proof/Machine/Display.lean ====
section
/-! DEFINITION. The display commands: `DISP_NEW` (R161) and `SHOW` (R162). -/

namespace Sys2Proof.Machine

open Sys2Proof

/-- The display as `DISP_NEW` constructs it (R161). -/
def State.constructDisplay (s : State) : State :=
  { s with
    dispInit := true
    rowPin := List.replicate s.params.rows false
    colOn := List.replicate s.params.cols false
    active := zeroSched s.params
    curRow := none
    stepIdx := 0
    trun := false
    tcount := 0
    cc0 := 0
    cc1 := BitVec.ofNat 32 s.params.tpf
    short1Clear := true
    ev0 := false
    ev1 := false
    inten0 := true
    inten1 := true
    swpend := true }

/-- `DISP_NEW` (R161). -/
def execDispNew (s : State) : Host.Outcome State Fault Refusal :=
  if s.dispInit then .next (s.cmdError .resourceAlreadyClaimed)
  else .next (s.constructDisplay.complete 0)

/-- `SHOW` (R162). -/
def execShow (s : State) : Host.Outcome State Fault Refusal :=
  if s.dispInit then .next ({ s with pending := buildSchedule s.params s.stage }.complete 0)
  else .next (s.cmdError .notInitialised)

end Sys2Proof.Machine
end

