-- ==== Sys2Proof/Syntax.lean ====
section
/-! DEFINITION. The commands of the block, one constructor per row of spec/opcode_table.json (R103). An
operand is the field of the command word as it stands: whether it is in range is checked when the command
runs (R110). -/

namespace Sys2Proof

/-- The twelve commands (R103). -/
inductive Instr where
  /-- `NOP` (R240). -/
  | nop
  /-- `DISP_NEW` (R161). -/
  | dispNew
  /-- `SHOW` (R162). -/
  | showImage
  /-- `IMG_CLEAR` (R131). -/
  | imgClear
  /-- `IMG_WRITE row, col, b` (R132). -/
  | imgWrite (row col : Nibble) (b : Byte)
  /-- `IMG_READ row, col` (R133). -/
  | imgRead (row col : Nibble)
  /-- `IMG_SHIFT_LEFT n` (R134). -/
  | imgShiftLeft (n : Byte)
  /-- `BTN_NEW h, k` (R211). -/
  | btnNew (h k : Nibble)
  /-- `BTN_WAS_PRESSED h` (R212). -/
  | btnWasPressed (h : Nibble)
  /-- `BTN_IS_PRESSED h` (R213). -/
  | btnIsPressed (h : Nibble)
  /-- `CS_ENTER` (R241). -/
  | csEnter
  /-- `CS_EXIT` (R242). -/
  | csExit
deriving DecidableEq, Repr, Inhabited

end Sys2Proof
end

