-- ==== Sys2Proof/Machine/Dispatch.lean ====
section
/-! DEFINITION. One arm per command: the meaning of a decoded command (R110). -/

namespace Sys2Proof.Machine
open Sys2Proof

def exec (i : Instr) (s : State) : Host.Outcome State Fault Refusal :=
  match i with
  | .nop => Sys2Proof.Machine.execNop s
  | .dispNew => Sys2Proof.Machine.execDispNew s
  | .showImage => Sys2Proof.Machine.execShow s
  | .imgClear => Sys2Proof.Machine.execImgClear s
  | .imgWrite row col b => Sys2Proof.Machine.execImgWrite row col b s
  | .imgRead row col => Sys2Proof.Machine.execImgRead row col s
  | .imgShiftLeft n => Sys2Proof.Machine.execImgShiftLeft n s
  | .btnNew h k => Sys2Proof.Machine.execBtnNew h k s
  | .btnWasPressed h => Sys2Proof.Machine.execBtnWasPressed h s
  | .btnIsPressed h => Sys2Proof.Machine.execBtnIsPressed h s
  | .csEnter => Sys2Proof.Machine.execCsEnter s
  | .csExit => Sys2Proof.Machine.execCsExit s

end Sys2Proof.Machine
end

