-- ==== Sys2Proof/Machine/Sequencer.lean ====
section
/-! DEFINITION. The `SEQ` agent: the take and the four phases of a pass (R166 to R172). -/

namespace Sys2Proof.Machine

open Sys2Proof

/-- The derived row of a captured counter value (R169). -/
def derivedRow (p : Params) (c : Nat) : Nat := c / p.tpr

/-- The row-local time of a captured counter value (R169). -/
def rowLocal (p : Params) (c : Nat) : Nat := c - derivedRow p c * p.tpr

/-- The ENTRY phase: clear the event flags (R167). -/
def entryPhase (s : State) : State :=
  { s with ev0 := false, ev1 := false, swpend := false, seqPhase := .main }

/-- The lighting loop of a row transition: turn on every column of non-zero time and count the others
(R170). The pair is `COL_ON` and the count. -/
def lightColumns : RowSchedule → List Bool → Nat → List Bool × Nat
  | [], cols, z => (cols, z)
  | e :: rest, cols, z =>
    if e.time.toNat = 0 then lightColumns rest cols (z + 1)
    else lightColumns rest (cols.set e.col true) z

/-- `ROW_PIN` with the row last selected driven low (R170). -/
def dropRowPin (pins : List Bool) (row : Option Nat) : List Bool :=
  match row with
  | none => pins
  | some r => pins.set r false

/-- `row_transition(d)` (R170). -/
def rowTransition (d : Nat) (s : State) : State :=
  let active := if d = 0 then s.pending else s.active
  let lit := lightColumns ((schedRow active d).take s.params.cols) (List.replicate s.params.cols false) 0
  { s with
    rowPin := (dropRowPin s.rowPin s.curRow).set d true
    curRow := some d
    active := active
    colOn := lit.1
    stepIdx := lit.2 }

/-- The loop of step 4 over the entries not yet past: turn off every column that is due, up to the first
entry that is not (R168). The pair is `COL_ON` and `STEP_IDX`. -/
def turnOffDue (now : Nat) : RowSchedule → List Bool → Nat → List Bool × Nat
  | [], cols, i => (cols, i)
  | e :: rest, cols, i =>
    if e.time.toNat ≤ now then turnOffDue now rest (cols.set e.col false) (i + 1) else (cols, i)

/-- Step 4 in row `d` at row-local time `now` (R168). -/
def stepFour (d now : Nat) (s : State) : State :=
  let out := turnOffDue now (((schedRow s.active d).take s.params.cols).drop s.stepIdx) s.colOn s.stepIdx
  { s with colOn := out.1, stepIdx := out.2 }

/-- Step 3: a row transition unless the derived row is the current one (R168). -/
def stepThree (d : Nat) (s : State) : State := if s.curRow = some d then s else rowTransition d s

/-- The MAIN phase (R168): one captured counter value serves steps 2 to 4. -/
def mainPhase (s : State) : State :=
  let c := s.tcount.toNat
  let d := derivedRow s.params c
  if s.params.rows ≤ d then s.raiseFault .rowOutOfRange
  else { stepFour d (rowLocal s.params c) (stepThree d s) with seqPhase := .program }

/-- The deadline the PROGRAM phase writes in row `r` (R171); none where the schedule has no entry at
`STEP_IDX`. -/
def nextDeadline (r : Nat) (s : State) : Option Nat :=
  if s.stepIdx < s.params.cols then
    (schedRow s.active r)[s.stepIdx]?.map fun e => r * s.params.tpr + e.time.toNat
  else some (r * s.params.tpr + s.params.tpr)

/-- The PROGRAM phase (R171). Without a current row or an entry to program, which R171 rules out, it is a
broken contract (log entry 8). -/
def programPhase (s : State) : State :=
  match s.curRow.bind fun r => nextDeadline r s with
  | some deadline =>
    { s with cc0 := BitVec.ofNat 32 deadline, trun := true, seqPhase := .check }
  | none => s.raiseFault .invariantBroken

/-- The CHECK phase: the defensive re-check (R172). -/
def checkPhase (s : State) : State :=
  if s.cc0.toNat ≤ s.tcount.toNat ∧ s.irqLine = false then s.interruptReinvoke else s.interruptReturn

/-- One step of the `SEQ` agent: the take when idle, else the phase it is at (R166 to R172). -/
def seqStep (s : State) : State :=
  match s.seqPhase with
  | .idle => s.interruptEntry
  | .entry => entryPhase s
  | .main => mainPhase s
  | .program => programPhase s
  | .check => checkPhase s

end Sys2Proof.Machine
end

