-- ==== Sys2Proof/Machine/Timer.lean ====
section
/-! DEFINITION. The `TIMER` agent (R164, R165). -/

namespace Sys2Proof.Machine

open Sys2Proof

/-- One tick (R165). -/
def timerTick (s : State) : State :=
  { s with
    ev0 := s.ev0AfterTick
    ev1 := s.ev1AfterTick
    tcount := if s.clearsCount then 0 else s.nextCount }

end Sys2Proof.Machine
end

