-- ==== Sys2Proof/Decode.lean ====
section
/-! DEFINITION. The command encoding (30_encoding.md): the fields of `CMD32`, the opcode map, a decoder
total on every word and every byte string, and the encoder. -/

namespace Sys2Proof

/-! ### The fields of `CMD32` (R100) -/

/-- `OP`, bits [31:28]. -/
def fieldOp (w : Word) : BitVec 4 := w.extractLsb' 28 4

/-- `A`, bits [27:24]. -/
def fieldA (w : Word) : Nibble := w.extractLsb' 24 4

/-- `B`, bits [23:20]. -/
def fieldB (w : Word) : Nibble := w.extractLsb' 20 4

/-- `RSV`, bits [19:8]. -/
def fieldRsv (w : Word) : BitVec 12 := w.extractLsb' 8 12

/-- `IMM8`, bits [7:0]. -/
def fieldImm8 (w : Word) : Byte := w.extractLsb' 0 8

/-- The word with the given fields and `RSV` = 0. -/
def packFields (op : BitVec 4) (a b : Nibble) (imm8 : Byte) : Word :=
  op ++ a ++ b ++ (0 : BitVec 12) ++ imm8

/-! ### The opcode map (R103) -/

/-- The rows of the opcode map. -/
inductive Opcode where
  | nop
  | dispNew
  | showImage
  | imgClear
  | imgWrite
  | imgRead
  | imgShiftLeft
  | btnNew
  | btnWasPressed
  | btnIsPressed
  | csEnter
  | csExit
deriving DecidableEq, Repr, Inhabited

/-- Every row, in the order of the table. -/
def Opcode.all : List Opcode :=
  [.nop, .dispNew, .showImage, .imgClear, .imgWrite, .imgRead, .imgShiftLeft, .btnNew, .btnWasPressed,
    .btnIsPressed, .csEnter, .csExit]

/-- The column `OP` of R103. -/
def Opcode.number : Opcode → BitVec 4
  | .nop => 0x0
  | .dispNew => 0x1
  | .showImage => 0x2
  | .imgClear => 0x3
  | .imgWrite => 0x4
  | .imgRead => 0x5
  | .imgShiftLeft => 0x6
  | .btnNew => 0x7
  | .btnWasPressed => 0x8
  | .btnIsPressed => 0x9
  | .csEnter => 0xA
  | .csExit => 0xB

/-- The column `match` of R103. -/
def Opcode.matchWord : Opcode → Word
  | .nop => 0x00000000
  | .dispNew => 0x10000000
  | .showImage => 0x20000000
  | .imgClear => 0x30000000
  | .imgWrite => 0x40000000
  | .imgRead => 0x50000000
  | .imgShiftLeft => 0x60000000
  | .btnNew => 0x70000000
  | .btnWasPressed => 0x80000000
  | .btnIsPressed => 0x90000000
  | .csEnter => 0xA0000000
  | .csExit => 0xB0000000

/-- The column `mask` of R103. -/
def Opcode.maskWord : Opcode → Word
  | .nop => 0xFFFFFFFF
  | .dispNew => 0xFFFFFFFF
  | .showImage => 0xFFFFFFFF
  | .imgClear => 0xFFFFFFFF
  | .imgWrite => 0xF00FFF00
  | .imgRead => 0xF00FFFFF
  | .imgShiftLeft => 0xFFFFFF00
  | .btnNew => 0xF00FFFFF
  | .btnWasPressed => 0xF0FFFFFF
  | .btnIsPressed => 0xF0FFFFFF
  | .csEnter => 0xFFFFFFFF
  | .csExit => 0xFFFFFFFF

/-- The mnemonic of a row (R103). -/
def Opcode.mnemonic : Opcode → String
  | .nop => "NOP"
  | .dispNew => "DISP_NEW"
  | .showImage => "SHOW"
  | .imgClear => "IMG_CLEAR"
  | .imgWrite => "IMG_WRITE"
  | .imgRead => "IMG_READ"
  | .imgShiftLeft => "IMG_SHIFT_LEFT"
  | .btnNew => "BTN_NEW"
  | .btnWasPressed => "BTN_WAS_PRESSED"
  | .btnIsPressed => "BTN_IS_PRESSED"
  | .csEnter => "CS_ENTER"
  | .csExit => "CS_EXIT"

/-- The row of the table an instruction belongs to. -/
def Instr.opcode : Instr → Opcode
  | .nop => .nop
  | .dispNew => .dispNew
  | .showImage => .showImage
  | .imgClear => .imgClear
  | .imgWrite _ _ _ => .imgWrite
  | .imgRead _ _ => .imgRead
  | .imgShiftLeft _ => .imgShiftLeft
  | .btnNew _ _ => .btnNew
  | .btnWasPressed _ => .btnWasPressed
  | .btnIsPressed _ => .btnIsPressed
  | .csEnter => .csEnter
  | .csExit => .csExit

/-! ### The decoder (R101, R102, R104, R105) -/

/-- `w` spells the command of row `o` (R102). -/
def spells (o : Opcode) (w : Word) : Bool := (w &&& o.maskWord) == o.matchWord

/-- The command of row `o` with its operands taken from `w` by zero extension (R101). -/
def assemble (o : Opcode) (w : Word) : Instr :=
  match o with
  | .nop => .nop
  | .dispNew => .dispNew
  | .showImage => .showImage
  | .imgClear => .imgClear
  | .imgWrite => .imgWrite (fieldA w) (fieldB w) (fieldImm8 w)
  | .imgRead => .imgRead (fieldA w) (fieldB w)
  | .imgShiftLeft => .imgShiftLeft (fieldImm8 w)
  | .btnNew => .btnNew (fieldA w) (fieldB w)
  | .btnWasPressed => .btnWasPressed (fieldA w)
  | .btnIsPressed => .btnIsPressed (fieldA w)
  | .csEnter => .csEnter
  | .csExit => .csExit

/-- Why a word or a byte string spells no command. -/
inductive DecodeError where
  /-- `OP` is 0xC to 0xF (R104). -/
  | reservedOpcode
  /-- A bit of `RSV`, bits [19:8], is set (R105). -/
  | reservedBitsSet
  /-- A field the command does not use is not 0 (R105). -/
  | unusedFieldSet
  /-- Fewer than four bytes: every command is 32 bits long (R107). -/
  | truncated
deriving DecidableEq, Repr, Inhabited

/-- What a word decodes to. -/
inductive Decoded where
  | command (i : Instr)
  | illegal (why : DecodeError)
deriving DecidableEq, Repr

/-- The reason an illegal word is illegal. -/
def illegalReason (w : Word) : DecodeError :=
  if 12 ≤ (fieldOp w).toNat then .reservedOpcode
  else if fieldRsv w ≠ 0 then .reservedBitsSet
  else .unusedFieldSet

/-- The decoder: the row the word spells, or illegal (R102, R104). -/
def decode (w : Word) : Decoded :=
  match Opcode.all.find? fun o => spells o w with
  | some o => .command (assemble o w)
  | none => .illegal (illegalReason w)

/-! ### The encoder (R100, R103) -/

/-- The one word that spells an instruction. -/
def encode : Instr → Word
  | .nop => packFields 0x0 0 0 0
  | .dispNew => packFields 0x1 0 0 0
  | .showImage => packFields 0x2 0 0 0
  | .imgClear => packFields 0x3 0 0 0
  | .imgWrite row col b => packFields 0x4 row col b
  | .imgRead row col => packFields 0x5 row col 0
  | .imgShiftLeft n => packFields 0x6 0 0 n
  | .btnNew h k => packFields 0x7 h k 0
  | .btnWasPressed h => packFields 0x8 h 0 0
  | .btnIsPressed h => packFields 0x9 h 0 0
  | .csEnter => packFields 0xA 0 0 0
  | .csExit => packFields 0xB 0 0 0

/-! ### Bytes (R73): little-endian, byte `i` of a word is bits [8i+7:8i] -/

/-- Byte `i` of a word. -/
def wordByte (w : Word) (i : Nat) : Byte := w.extractLsb' (8 * i) 8

/-- The four bytes of a word, lowest address first. -/
def wordBytes (w : Word) : List Byte := [wordByte w 0, wordByte w 1, wordByte w 2, wordByte w 3]

/-- The word four bytes make, the first at the lowest address. -/
def wordOfBytes (b0 b1 b2 b3 : Byte) : Word := b3 ++ b2 ++ b1 ++ b0

/-- The decoder on bytes: the command the first four spell, or why they spell none. -/
def decodeBytes : List Byte → Decoded
  | b0 :: b1 :: b2 :: b3 :: _ => decode (wordOfBytes b0 b1 b2 b3)
  | _ => .illegal .truncated

/-- The instruction a decoding gives, if it gives one. -/
def Decoded.instr? : Decoded → Option Instr
  | .command i => some i
  | .illegal _ => none

/-- The command word of a table row's bits: `nbits` bits, every bit above them 0. -/
def tableWord (nbits w : Nat) : Word := BitVec.ofNat 32 (w % 2 ^ nbits)

/-- The instruction the decoder reads from the bits `w`, laid out as bytes in the window's byte order. -/
def decodeTableWord (nbits w : Nat) : Option Instr :=
  (decodeBytes (wordBytes (tableWord nbits w))).instr?

end Sys2Proof
end

