-- ==== Sys2Proof/Machine/Window.lean ====
section
/-! DEFINITION. The register window (R70 to R79): the map, the access rules and the read values. -/

namespace Sys2Proof.Machine

open Sys2Proof

/-- The registers of the map (R71). -/
inductive WindowReg where
  | cmd
  | result
  | status
  | pressCountA
  | pressCountB
  | rowOut
  | colOut
  | reserved
deriving DecidableEq, Repr, Inhabited

/-- The register at a word offset (R71, R76). -/
def windowReg (offset : Nat) : WindowReg :=
  match offset / 4 with
  | 0 => .cmd
  | 1 => .result
  | 2 => .status
  | 3 => .pressCountA
  | 4 => .pressCountB
  | 5 => .rowOut
  | 6 => .colOut
  | _ => .reserved

/-- The offset of a register's word (R71); the first reserved one for the reserved words. -/
def WindowReg.offset : WindowReg → Nat
  | .cmd => 0x00
  | .result => 0x04
  | .status => 0x08
  | .pressCountA => 0x0C
  | .pressCountB => 0x10
  | .rowOut => 0x14
  | .colOut => 0x18
  | .reserved => 0x1C

/-- The read value of a register (R71, R76 to R79). -/
def readReg (s : State) : WindowReg → Word
  | .cmd => 0
  | .result => s.result
  | .status => s.statusWord
  | .pressCountA => s.btnA.pressCount
  | .pressCountB => s.btnB.pressCount
  | .rowOut => s.rowOut
  | .colOut => s.colOut
  | .reserved => 0

/-- The offset of an admitted access, or why it is refused (R70, R72; log entry 9). -/
def accessOffset (p : Params) (addr n : Nat) : Except Refusal Nat :=
  if addr < p.blockBase ∨ p.blockBase + windowBytes ≤ addr then .error .accessOutsideWindow
  else if n ≠ 4 then .error .accessWidth
  else if (addr - p.blockBase) % 4 ≠ 0 then .error .accessMisaligned
  else .ok (addr - p.blockBase)

/-- The byte at a byte offset of the window (R73). No access returns it alone (R72). -/
def windowByte (s : State) (offset : Nat) : Byte :=
  wordByte (readReg s (windowReg offset)) (offset % 4)

end Sys2Proof.Machine
end

