-- ==== Sys2Proof/WellFormed.lean ====
section
/-! DEFINITION. Well-formedness: of a parameter set (R10), one named check each, and of an instruction
(every index operand below the bound its rule gives: R132, R133, R211, R212, R213). -/

namespace Sys2Proof

/-- R10: `TPR ≥ 1`. -/
def Params.tprOk (p : Params) : Bool := decide (1 ≤ p.tpr)

/-- R10: `TPF < 2^TIMER_WIDTH`. -/
def Params.tpfOk (p : Params) : Bool := decide (p.tpf < 2 ^ 32)

/-- R10: `LOGICAL_TO_HW` is injective. -/
def Params.mapInjective (p : Params) : Bool := decide (logicalCells.map p.logicalToHw).Nodup

/-- R10: `LOGICAL_TO_HW` maps into `[0,R) × [0,C)`. -/
def Params.mapInRange (p : Params) : Bool :=
  logicalCells.all fun cell =>
    decide ((p.logicalToHw cell).1 < p.rows ∧ (p.logicalToHw cell).2 < p.cols)

/-- R10: `R ≥ 1` and `C ≥ 1`. -/
def Params.sizeOk (p : Params) : Bool := decide (1 ≤ p.rows ∧ 1 ≤ p.cols)

/-- A well-formed parameter set (R10). -/
def Params.wellFormed (p : Params) : Bool :=
  p.tprOk && p.tpfOk && p.mapInjective && p.mapInRange && p.sizeOk

/-- A row or column operand is an index of the 5×5 image (R132, R133). -/
def cellOperandsOk (row col : Nibble) : Bool := decide (row.toNat < 5 ∧ col.toNat < 5)

/-- A handle operand names one of the `NH` slots (R211, R212, R213). -/
def handleOperandOk (h : Nibble) : Bool := decide (h.toNat < 4)

/-- A button operand names one of the two buttons (R211). -/
def buttonOperandOk (k : Nibble) : Bool := decide (k.toNat < 2)

/-- A well-formed instruction: every index operand is below its bound. The encoding admits others, and
running one raises `OPERAND_RANGE` (R110, R272). -/
def Instr.wellFormed : Instr → Bool
  | .nop => true
  | .dispNew => true
  | .showImage => true
  | .imgClear => true
  | .imgWrite row col _ => cellOperandsOk row col
  | .imgRead row col => cellOperandsOk row col
  | .imgShiftLeft _ => true
  | .btnNew h k => handleOperandOk h && buttonOperandOk k
  | .btnWasPressed h => handleOperandOk h
  | .btnIsPressed h => handleOperandOk h
  | .csEnter => true
  | .csExit => true

end Sys2Proof
end

