-- ==== Sys2Proof/Machine/Port.lean ====
section
/-! DEFINITION. The steps of the agents as the block sees them: executing a command word (R110), the HOST's
reads and writes (R74, R75), and what one choice about the next step does (R60, R80, R82). -/

namespace Sys2Proof.Machine

open Sys2Proof

/-- `execute(w)` (R110): an illegal word raises `ILLEGAL_COMMAND` (R104). -/
def executeWord (w : Word) (s : State) : Host.Outcome State Fault Refusal :=
  match decode w with
  | .command i => exec i s
  | .illegal _ => .next (s.cmdError .illegalCommand)

/-- An admitted read returns the register's word and changes no element of the block (R74). -/
def hostRead (addr n : Nat) (s : State) : Host.Outcome State Fault Refusal :=
  match accessOffset s.params addr n with
  | .ok offset => .next { s with readData := some (readReg s (windowReg offset)) }
  | .error r => .refused r

/-- An admitted write: to `CMD` it executes the word, elsewhere it changes nothing (R75, R76). -/
def hostWrite (addr n : Nat) (v : Word) (s : State) : Host.Outcome State Fault Refusal :=
  match accessOffset s.params addr n with
  | .ok offset => if windowReg offset = .cmd then executeWord v s else .next s
  | .error r => .refused r

/-- One `HOST` step (R72). -/
def hostStep (op : HostOp) (s : State) : Host.Outcome State Fault Refusal :=
  match op with
  | .read addr n => hostRead addr n s
  | .write addr n v => hostWrite addr n v s

/-- The check of R61 after a step, on its outcome. -/
def settleOutcome : Host.Outcome State Fault Refusal → Host.Outcome State Fault Refusal
  | .next s => .next s.settle
  | .fault r => .fault r
  | .refused r => .refused r

/-- The state after an agent that needs no input has stepped, if it has a step; a choice of an agent that
has none passes with no effect (log entry 1). -/
def stepIfEnabled (a : Agent) (f : State → State) (s : State) : State :=
  if s.enabled a then f s else s

/-- A cooperative agent's step (R82): where the sequencer has a step, it goes first and the choice stays
(R277 (c)); where neither has one, the choice passes with no effect (log entry 1). -/
def cooperativeStep (c : Choice) (a : Agent) (own : State → Host.Outcome State Fault Refusal) (s : State) :
    Host.Outcome State Fault Refusal :=
  if s.enabled .seq then .next (seqStep (s.putBack c))
  else if s.enabled a then own s
  else .next s

/-- The step of the agent a choice names, in a block that has not faulted. -/
def agentStep (c : Choice) (s : State) : Host.Outcome State Fault Refusal :=
  match c with
  | .timer => .next (stepIfEnabled .timer timerTick s)
  | .seq => .next (stepIfEnabled .seq seqStep s)
  | .env k v => .next (stepIfEnabled .env (envStep k v) s)
  | .sampler => cooperativeStep .sampler .sampler (fun t => .next (samplerStep t)) s
  | .host op => cooperativeStep (.host op) .host (hostStep op) s
  | .reset rawA rawB => .next (s.resetEvent rawA rawB)

/-- One choice (R10, R60, R80, R300): an ill-formed parameter set is refused; reset always happens; a
faulted block has no other step; else the agent steps and the result is checked (R61). -/
def runChoice (c : Choice) (s : State) : Host.Outcome State Fault Refusal :=
  if s.params.wellFormed = false then .refused .illFormedParameters
  else if c.agent.isSome && s.fault then .fault s.stopReason
  else settleOutcome (agentStep c s)

/-- The command word `w` written to `CMD`, as the next choice. -/
def State.offerWord (s : State) (w : Word) : State :=
  s.putBack (.host (.write s.params.blockBase 4 w))

end Sys2Proof.Machine
end

