-- ==== Sys2Proof/Machine/Step.lean ====
section
/-! DEFINITION. The step of the machine: the next choice is taken and run. -/

namespace Sys2Proof.Machine

open Sys2Proof

/-- One step (R80): the outside's next choice names the agent and its input. -/
def step (s : State) : Host.Outcome State Fault Refusal := runChoice s.nextChoice s.dropChoice

/-- The state in which the HOST's next step writes the word of the bits `w` to `CMD` (log entry 5). -/
def State.withFetchWord (s : State) (nbits w : Nat) : State := s.offerWord (tableWord nbits w)

end Sys2Proof.Machine
end

