-- ==== Sys2Proof/Machine/HostProgram.lean ====
section
/-! DEFINITION. Host programs (R108, R109): the lines a host issues, the accesses they stand for, the choices
of a program beside the other agents (R260), the
pseudo-commands, and the text of a line. -/

namespace Sys2Proof.Machine

open Sys2Proof

/-- One line of a host program (R108), or an interval in which the host issues nothing (R260). -/
inductive HostAct where
  /-- A command line: its word written to `CMD`. -/
  | cmd (i : Instr)
  /-- `RD <register>`. -/
  | rd (r : WindowReg)
  /-- `.word w`: a raw word written to `CMD`. -/
  | word (w : Word)
  /-- A suspension: an interval of any length in which the HOST issues nothing and every other agent may step
  (R83, R260, R264). -/
  | suspend
deriving DecidableEq, Repr

/-- The access a line stands for (R108); none for a suspension. -/
def HostAct.op? (p : Params) : HostAct → Option HostOp
  | .cmd i => some (.write p.blockBase 4 (encode i))
  | .rd r => some (.read (p.blockBase + r.offset) 4)
  | .word w => some (.write p.blockBase 4 w)
  | .suspend => none

/-- A choice that may fall where the HOST issues nothing: a step of another agent (R260). A reset is none. -/
def besideHost : Choice → Bool
  | .timer => true
  | .seq => true
  | .sampler => true
  | .host _ => false
  | .env _ _ => true
  | .reset _ _ => false

/-- An interval in which the HOST issues nothing: the choices of the other agents, in order, any number of
them (R83, R260). -/
def quietInterval (cs : List Choice) : List Choice := cs.filter besideHost

/-- The choices of one line. A suspension is its interval and nothing else; a line that stands for an access is
the access, after what the other agents do before it (R82, R109, R260). -/
def HostAct.choices (p : Params) (interval : List Choice) (l : HostAct) : List Choice :=
  match l.op? p with
  | some op => quietInterval interval ++ [.host op]
  | none => quietInterval interval

/-- The choices of a program, in order, with one interval per line and one after the last. The intervals are
the outside's to choose, each of any length; one that is not given is empty (log entry 13). -/
def programAgenda (p : Params) : List HostAct → List (List Choice) → List Choice
  | [], intervals => quietInterval (intervals.headD [])
  | l :: rest, intervals => l.choices p (intervals.headD []) ++ programAgenda p rest intervals.tail

/-- The access of a choice, if it is the HOST's. -/
def hostOp? : Choice → Option HostOp
  | .timer => none
  | .seq => none
  | .sampler => none
  | .host op => some op
  | .env _ _ => none
  | .reset _ _ => none

/-- The HOST's accesses among a list of choices, in order. -/
def hostAccesses (cs : List Choice) : List HostOp := cs.filterMap hostOp?

/-- The state in which the coming choices are those of a program's lines, with what the other agents do in the
given intervals. -/
def State.offerProgram (s : State) (lines : List HostAct) (intervals : List (List Choice)) : State :=
  { s with agenda := programAgenda s.params lines intervals ++ s.agenda }

/-- The commands of a program run one after another with no other agent between them. -/
def execAll : List Instr → State → Host.Outcome State Fault Refusal
  | [], s => .next s
  | i :: rest, s =>
    match exec i s with
    | .next t => execAll rest t
    | .fault r => .fault r
    | .refused r => .refused r

/-- An index as an operand field. -/
def operandOf (i : Fin 5) : Nibble := BitVec.ofNat 4 i.val

/-- `IMG_WRITE row, col, b` with indices as operands. -/
def writeCell (row col : Fin 5) (b : Byte) : Instr := .imgWrite (operandOf row) (operandOf col) b

/-- `IMG_ROW r, b0, b1, b2, b3, b4` (R109). -/
def imgRow (r : Fin 5) (bs : Vector Byte 5) : List Instr :=
  (List.finRange 5).map fun col => writeCell r col bs[col]

/-- `IMG_LOAD M` (R109): clear, then write every non-zero cell in row-major order. -/
def imgLoad (m : Image) : List Instr :=
  .imgClear :: logicalCells.filterMap fun cell =>
    if imageGet m cell.1 cell.2 = 0 then none
    else some (writeCell cell.1 cell.2 (imageGet m cell.1 cell.2))

/-- `SHOW_IMAGE M` (R109). -/
def showImageOf (m : Image) : List Instr := imgLoad m ++ [.showImage]

/-- `WAS_PRESSED h` (R109). -/
def wasPressed (h : Nibble) : List HostAct := [.cmd (.btnWasPressed h), .rd .result]

/-! ### The text of a line (R108) -/

/-- Operands in the order A, B, IMM8, separated by commas. -/
def operandText : List Nat → String
  | [] => ""
  | [x] => " " ++ toString x
  | x :: rest => " " ++ toString x ++ "," ++ operandText rest

/-- The operands of a command, in order. -/
def Instr.operands : Instr → List Nat
  | .nop => []
  | .dispNew => []
  | .showImage => []
  | .imgClear => []
  | .imgWrite row col b => [row.toNat, col.toNat, b.toNat]
  | .imgRead row col => [row.toNat, col.toNat]
  | .imgShiftLeft n => [n.toNat]
  | .btnNew h k => [h.toNat, k.toNat]
  | .btnWasPressed h => [h.toNat]
  | .btnIsPressed h => [h.toNat]
  | .csEnter => []
  | .csExit => []

/-- A command line: the mnemonic and its operands in decimal. -/
def Instr.text (i : Instr) : String := i.opcode.mnemonic ++ operandText (Instr.operands i)

end Sys2Proof.Machine
end

