-- ==== Sys2Proof/Machine/Scroll.lean ====
section
/-! DEFINITION. The scroll host procedure (44_scroll.md), as the lines it issues. `GLYPH`, `SCROLL_GAP`,
`SCROLL_BLANK_WIDTH` and `SCROLL_OUT` are arguments (R263; log entry 13). -/

namespace Sys2Proof.Machine

open Sys2Proof

/-- A column of a glyph is blank when all five of its values are 0 (R262). -/
def blankColumn (g : Image) (j : Fin 5) : Bool :=
  (List.finRange 5).all fun lr => imageGet g lr j == 0

/-- `trim(g)` (R262): the columns from the first non-blank one to the last non-blank one. -/
def trim (g : Image) : List (Fin 5) :=
  (((List.finRange 5).dropWhile (blankColumn g)).reverse.dropWhile (blankColumn g)).reverse

/-- The commands that shift the image by one column and merge in a column of values (R261). -/
def shiftInColumn (values : Fin 5 → Byte) : List Instr :=
  .imgShiftLeft 1 :: (List.finRange 5).map fun lr => writeCell lr 4 (values lr)

/-- One glyph column: shift it in, show, suspend (R261). -/
def scrollColumn (values : Fin 5 → Byte) : List HostAct :=
  (shiftInColumn values).map HostAct.cmd ++ [.cmd .showImage, .suspend]

/-- One blank column: the shift fills column 4 with 0 (R261). -/
def scrollBlank : List HostAct := [.cmd (.imgShiftLeft 1), .cmd .showImage, .suspend]

/-- `n` blank columns. -/
def scrollBlanks (n : Nat) : List HostAct := (List.replicate n scrollBlank).flatten

/-- The lines of one character with glyph `g` (R261). -/
def scrollGlyph (gap blankWidth : Nat) (g : Image) : List HostAct :=
  ((trim g).flatMap fun j => scrollColumn fun lr => imageGet g lr j)
    ++ scrollBlanks (if trim g = [] then blankWidth else gap)

/-- `scroll(text)` (R261), a character being its number in the glyph table. -/
def scroll (glyph : Nat → Image) (gap blankWidth : Nat) (scrollOut : Bool) (text : List Nat) :
    List HostAct :=
  .cmd .imgClear :: (text.flatMap fun ch => scrollGlyph gap blankWidth (glyph ch))
    ++ (if scrollOut then scrollBlanks 5 else [])

end Sys2Proof.Machine
end

