-- ==== Sys2Proof/Machine/Pins.lean ====
section
/-! DEFINITION. The pins: which LED is lit (R39), the electrical levels of the row, column and button pins
(R37, R38, R39, R52). -/

namespace Sys2Proof.Machine

open Sys2Proof

/-- `Lit(r, c)` (R39). -/
def State.lit (s : State) (r c : Nat) : Bool :=
  s.dispInit && s.rowPin.getD r false && s.colOn.getD c false

/-- The level of row pin `r`: high when selected; undriven while `DISP_INIT = 0` (R37, R39). -/
def State.rowLevel (s : State) (r : Nat) : Option Bool :=
  if s.dispInit then some (s.rowPin.getD r false) else none

/-- The level of column pin `c`: `COL_ON_LEVEL` when on, the other level when off; undriven while
`DISP_INIT = 0` (R38, R39). -/
def State.colLevel (s : State) (c : Nat) : Option Bool :=
  if s.dispInit then some (s.colOn.getD c false == s.params.colOnLevel) else none

/-- The raw value of a button whose pin is at a level (R52). -/
def Params.rawOfLevel (p : Params) (level : Bool) : Bool := level == p.btnActiveLevel

/-- The level of the pin of button `k` (R52). -/
def State.buttonLevel (s : State) (k : ButtonId) : Bool :=
  (s.button k).raw == s.params.btnActiveLevel

end Sys2Proof.Machine
end

