-- ==== Sys2Proof/Safety.lean ====
section
/-! DEFINITION. The terms of the claims: the invariant of every reachable state (R61 and what it takes to
be kept by every step), runs and fairness (R80, R83), and ideal runs of the display (R174). -/

namespace Sys2Proof.Machine

open Sys2Proof

/-- A safe outcome of a step: the machine goes on and has not faulted. -/
def SafeOutcome : Host.Outcome State Fault Refusal → Prop
  | .next t => t.fault = false
  | .fault _ => False
  | .refused _ => True

/-- The invariant of the states a run from reset reaches: a well-formed parameter set (R10), no fault
(R274), R61, and what the rules give beside it that the next step needs. -/
structure State.Inv (s : State) : Prop where
  /-- The parameter set is well-formed (R10). -/
  paramsOk : s.params.wellFormed = true
  /-- No fault has been raised (R274). -/
  running : s.fault = false
  /-- R61 (a) to (f). -/
  contract : s.contractHolds = true
  /-- `CUR_ROW` is NONE or a row (R40). -/
  rowLegal : ∀ r, s.curRow = some r → r < s.params.rows
  /-- A constructed display is armed (R46, R47, R161, R180). -/
  armed : s.dispInit = true → s.short1Clear = true ∧ s.inten0 = true ∧ s.inten1 = true
  /-- An unconstructed display requests no interrupt and its timer is stopped (R43, R46, R48). -/
  unarmed : s.dispInit = false → s.inten0 = false ∧ s.inten1 = false ∧ s.swpend = false ∧ s.trun = false
  /-- The PROGRAM phase has a current row (R171). -/
  programmable : s.seqPhase = .program → s.curRow ≠ none
  /-- R217 (a) for button A. -/
  latchA : if s.btnA.latched then 2 ≤ s.btnA.sigma else s.btnA.sigma ≤ 8
  /-- R217 (a) for button B. -/
  latchB : if s.btnB.latched then 2 ≤ s.btnB.sigma else s.btnB.sigma ≤ 8
  /-- The reserved error codes are never written (R272). -/
  codeDefined : s.statusErr.toNat ≤ 6

/-- The block right after reset, with any drawn raw inputs and whatever the outside has chosen so far. -/
def State.fresh (p : Params) (rawA rawB : Bool) (agenda : List Choice) (draws : Nat) : State :=
  { State.resetWith p rawA rawB with agenda := agenda, draws := draws }

/-- The states a run from reset reaches, for a well-formed parameter set. -/
inductive Reachable : State → Prop where
  | reset (p : Params) (rawA rawB : Bool) (agenda : List Choice) (draws : Nat)
      (wellFormed : p.wellFormed = true) : Reachable (State.fresh p rawA rawB agenda draws)
  | step (s t : State) (reached : Reachable s) (stepped : Machine.step s = .next t) : Reachable t

/-! ### Runs and fairness -/

/-- An infinite run (R80). -/
def IsRun (f : Nat → State) : Prop := ∀ n, step (f n) = .next (f (n + 1))

/-- The agent whose step the next step is, where it is an agent's (R82). -/
def State.actor (s : State) : Option Agent :=
  match s.nextChoice.agent with
  | none => none
  | some a =>
    if (a = .host ∨ a = .sampler) ∧ s.enabled .seq then some .seq
    else if s.enabled a then some a
    else none

/-- Weak fairness per agent (R83): one that stays enabled takes a step eventually (log entry 12). -/
def WeaklyFair (f : Nat → State) : Prop :=
  ∀ a n, (∀ m, n ≤ m → (f m).enabled a = true) → ∃ m, n ≤ m ∧ (f m).actor = some a

/-- No reset happens in the run. -/
def NoReset (f : Nat → State) : Prop := ∀ n, (f n).nextChoice.agent ≠ none

/-! ### Ideal runs (R174) -/

/-- `k` steps of the `SEQ` agent with no other agent between them. -/
def seqSteps : Nat → State → State
  | 0, s => s
  | k + 1, s => seqSteps k (seqStep s)

/-- A pass with no tick in it: take, ENTRY, MAIN, PROGRAM, CHECK (R166 to R172). -/
def passOf (s : State) : State := seqSteps 5 s

/-- One tick of an ideal run: the pass it triggers runs before the next tick (R174). -/
def idealTick (s : State) : State :=
  if (timerTick s).take then passOf (timerTick s) else timerTick s

/-- What the other agents do in a quiet interval of `n` ideal ticks: each tick and the five steps of the pass it
may trigger. Where it triggers none the sequencer has no step and its choices pass (log entry 1). -/
def idealInterval (n : Nat) : List Choice :=
  (List.replicate n (Choice.timer :: List.replicate 5 Choice.seq)).flatten

/-- The counter value of a state. -/
def State.count (s : State) : Nat := s.tcount.toNat

/-- The row schedule of the row the counter is in. -/
def State.currentSchedule (s : State) : RowSchedule :=
  schedRow s.active (derivedRow s.params s.count)

/-- What holds between the passes of an ideal run: the current row is the derived one, exactly the
entries not yet due are lit and not past, and channel 0 holds the next deadline (R168, R171, R175). -/
structure State.Rendering (s : State) : Prop where
  inv : s.Inv
  constructed : s.dispInit = true
  counting : s.trun = true
  idle : s.seqPhase = .idle
  unmasked : s.csDepth = 0
  quiet : s.irqLine = false
  row : s.curRow = some (derivedRow s.params s.count)
  past : s.stepIdx =
    s.currentSchedule.countP fun e => decide (e.time.toNat ≤ rowLocal s.params s.count)
  columns : ∀ e ∈ s.currentSchedule,
    s.colOn.getD e.col false = decide (rowLocal s.params s.count < e.time.toNat)
  pin : s.rowPin.getD (derivedRow s.params s.count) false = true
  deadline : nextDeadline (derivedRow s.params s.count) s = some s.cc0.toNat

end Sys2Proof.Machine
end

