-- ==== Sys2Proof/Certificates/Slice0/Obligations.lean ====
section
/-! DEFINITION. The statements for the provers, in the order of the spec's files. -/

open Sys2Proof Sys2Proof.Machine

/-! ### 00_scope.md, 10_state.md: parameters and invariants -/

/-- R10: which parameter sets are well-formed, and that a step refuses every other. -/
def Obligations.IllFormedParametersAreRefused : Prop :=
  (∀ p : Params, p.wellFormed = true ↔
    1 ≤ p.tpr ∧ p.tpf < 2 ^ 32 ∧ (∀ x y, p.logicalToHw x = p.logicalToHw y → x = y) ∧
      (∀ x, (p.logicalToHw x).1 < p.rows ∧ (p.logicalToHw x).2 < p.cols) ∧ 1 ≤ p.rows ∧ 1 ≤ p.cols) ∧
  ∀ s : State, s.params.wellFormed = false → step s = .refused .illFormedParameters

/-- R30: no step, and no reset, writes the parameters. -/
def Obligations.NoStepWritesParameters : Prop :=
  ∀ s t : State, step s = .next t → t.params = s.params

/-- R34 and R163, over every step that is not a reset: `PENDING` changes only by SHOW, `ACTIVE` only by
DISP_NEW and in a row transition to derived row 0, where it becomes a copy of `PENDING`. -/
def Obligations.SchedulesChangeOnlyBySwapOrCommand : Prop :=
  ∀ s t : State, step s = .next t → s.nextChoice.agent ≠ none →
    (t.pending = s.pending ∨
      ∃ addr w, s.nextChoice = .host (.write addr 4 w) ∧ decode w = .command .showImage ∧
        t.pending = buildSchedule s.params s.stage) ∧
    (t.active = s.active ∨
      (s.seqPhase = .main ∧ derivedRow s.params s.count = 0 ∧ s.curRow ≠ some 0 ∧
        t.active = s.pending) ∨
      ∃ addr w, s.nextChoice = .host (.write addr 4 w) ∧ decode w = .command .dispNew ∧
        s.dispInit = false ∧ t.active = zeroSched s.params)

/-- R61: the six invariants of every state a run from reset reaches; with R39, a lit LED is in the row last
selected, so no two rows are lit at once (R307). -/
def Obligations.ReachableStatesSatisfyTheInvariants : Prop :=
  ∀ s : State, Reachable s →
    (∀ r, s.rowPin.getD r false = true → s.curRow = some r) ∧
    s.stepIdx ≤ s.params.cols ∧
    (∀ k, (s.button k).sigma ≤ 12) ∧
    (∀ sched, sched = s.active ∨ sched = s.pending →
      sched.length = s.params.rows ∧
      ∀ row ∈ sched, (row.map Entry.col).Perm (List.range s.params.cols) ∧
        row.Pairwise (fun x y => x.time.toNat ≤ y.time.toNat) ∧
        ∀ e ∈ row, e.time.toNat ≤ s.params.tpr) ∧
    (s.dispInit = true → s.tcount.toNat < s.params.tpf ∧ s.cc1.toNat = s.params.tpf) ∧
    (s.seqPhase ≠ .idle → s.dispInit = true) ∧
    ∀ r c, s.lit r c = true → s.curRow = some r ∧ r < s.params.rows ∧ c < s.params.cols

/-- The invariant behind R61 and R274 is kept by every step of every agent and by reset. -/
def Obligations.EveryStepKeepsTheInvariant : Prop :=
  ∀ s t : State, s.Inv → step s = .next t → t.Inv

/-- The state after reset meets the invariant, for every well-formed parameter set and every raw input. -/
def Obligations.ResetMeetsTheInvariant : Prop :=
  State.reset.Inv ∧
  ∀ p rawA rawB agenda draws, p.wellFormed = true → (State.fresh p rawA rawB agenda draws).Inv

/-! ### 20_memory.md: the window and the order of steps -/

/-- Which accesses are admitted (R72); every other is refused, and no step is taken. R72 refuses those to the
window; that an access outside it, of which R70 says nothing, is refused too is the model's choice (log entry
9). -/
def Obligations.OnlyAlignedWordAccessesAreAdmitted : Prop :=
  ∀ (s : State) (addr n : Nat) (v : Word),
    ((n = 4 ∧ (addr - s.params.blockBase) % 4 = 0 ∧ s.params.blockBase ≤ addr ∧
        addr < s.params.blockBase + 0x40) →
      accessOffset s.params addr n = .ok (addr - s.params.blockBase)) ∧
    (¬(n = 4 ∧ (addr - s.params.blockBase) % 4 = 0 ∧ s.params.blockBase ≤ addr ∧
        addr < s.params.blockBase + 0x40) →
      ∃ r, hostStep (.read addr n) s = .refused r ∧ hostStep (.write addr n v) s = .refused r)

/-- What a read of each register returns, changing no element of the block (R71, R73 to R76, R79): that the step
keeps the value in `readData`, the model's own field, is the model's choice (log entry 4). A write to `CMD`
executes the word and a write to any other offset changes no state; byte `i` of a register word is its bits
[8i+7:8i]. -/
def Obligations.RegisterWindowReadsAndWrites : Prop :=
  ∀ (s : State) (value w : Word) (off i : Nat),
    (((off, value) ∈ [(0x00, 0), (0x04, s.result), (0x08, s.statusWord), (0x0C, s.btnA.pressCount),
        (0x10, s.btnB.pressCount), (0x14, s.rowOut), (0x18, s.colOut)] ∨
      (off % 4 = 0 ∧ 0x1C ≤ off ∧ off < 0x40 ∧ value = 0)) →
      hostStep (.read (s.params.blockBase + off) 4) s = .next { s with readData := some value } ∧
      (i < 4 → windowByte s (off + i) = value.extractLsb' (8 * i) 8)) ∧
    hostStep (.write s.params.blockBase 4 w) s = executeWord w s ∧
    (off % 4 = 0 → 0 < off → off < 0x40 →
      hostStep (.write (s.params.blockBase + off) 4 w) s = .next s)

/-- R77, R78: every field of the `STATUS` word and every bit of `ROW_OUT` and `COL_OUT`; the three are
read-only, and no HOST step happens with `FAULT` = 1. -/
def Obligations.StatusWordAndPinViews : Prop :=
  ∀ s : State,
    s.statusWord.extractLsb' 0 8 = s.statusErr ∧
    s.statusWord.getLsbD 8 = s.dispInit ∧
    s.statusWord.getLsbD 9 = s.samplerRun ∧
    s.statusWord.getLsbD 10 = s.fault ∧
    s.statusWord.extractLsb' 11 5 = 0 ∧
    s.statusWord.extractLsb' 16 8 = s.csDepth ∧
    s.statusWord.extractLsb' 24 8 = 0 ∧
    (∀ w off, off ∈ [0x08, 0x14, 0x18] →
      hostStep (.write (s.params.blockBase + off) 4 w) s = .next s) ∧
    (s.fault = true → s.enabled .host = false) ∧
    (s.dispInit = false → s.rowOut = 0 ∧ s.colOut = 0) ∧
    (s.dispInit = true → ∀ i,
      s.rowOut.getLsbD i = (decide (i < s.params.rows) && s.rowPin.getD i false) ∧
      s.colOut.getLsbD i = (decide (i < s.params.cols) && s.colOn.getD i false))

/-- R49, R82, R243: the interrupt request, the take condition, which agents have a step, and what a critical
section and a running pass exclude. -/
def Obligations.AgentEnablingTable : Prop :=
  ∀ s : State,
    (s.irqLine = true ↔
      (s.ev0 = true ∧ s.inten0 = true) ∨ (s.ev1 = true ∧ s.inten1 = true) ∨ s.swpend = true) ∧
    (s.take = true ↔ s.seqPhase = .idle ∧ s.irqLine = true ∧ s.csDepth = 0) ∧
    (s.fault = true → ∀ a, s.enabled a = false) ∧
    (s.fault = false →
      (s.enabled .timer = true ↔ s.trun = true) ∧
      s.enabled .env = true ∧
      (s.enabled .seq = true ↔ s.take = true ∨ s.seqPhase ≠ .idle) ∧
      (s.enabled .host = true ↔ s.seqPhase = .idle ∧ ¬s.take = true) ∧
      (s.enabled .sampler = true ↔
        s.samplerRun = true ∧ s.csDepth = 0 ∧ s.seqPhase = .idle ∧ ¬s.take = true)) ∧
    (s.csDepth ≠ 0 → s.take = false ∧ s.enabled .sampler = false) ∧
    (s.seqPhase ≠ .idle → s.enabled .host = false)

/-- R80, R82, R216: what a step of the machine does for each choice of an agent, where the agent has a step.
The list of choices is the model's form of the free order (log entry 1), the check after the step its form of
R274 (log entry 7). -/
def Obligations.EnabledAgentTakesItsStep : Prop :=
  ∀ (s : State) (rest : List Choice), s.params.wellFormed = true →
    (s.enabled .timer = true → s.agenda = .timer :: rest →
      step s = .next (timerTick { s with agenda := rest }).settle) ∧
    (∀ k v, s.enabled .env = true → s.agenda = .env k v :: rest →
      step s = .next (envStep k v { s with agenda := rest }).settle) ∧
    (s.enabled .seq = true → s.agenda = .seq :: rest →
      step s = .next (seqStep { s with agenda := rest }).settle) ∧
    (s.enabled .sampler = true → s.agenda = .sampler :: rest →
      step s = .next (samplerStep { s with agenda := rest }).settle) ∧
    (∀ op, s.enabled .host = true → s.agenda = .host op :: rest →
      step s = settleOutcome (hostStep op { s with agenda := rest }))

/-- R82, R277 (c): while the sequencer has a step, a HOST or SAMPLER choice waits and the sequencer steps
first. That a choice of an agent without a step passes with no effect of its own is the model's choice (log entry
1), and so is the check of R61 after either step, which R274 allows: in a state that breaks R61 it raises the
fault, unless the step has raised one itself (log entry 7). -/
def Obligations.SequencerGoesBeforeCooperativeSteps : Prop :=
  ∀ (s : State) (c : Choice) (rest : List Choice), s.params.wellFormed = true → s.fault = false →
    s.agenda = c :: rest →
    ((c = .sampler ∨ ∃ op, c = .host op) → s.enabled .seq = true → step s = .next (seqStep s).settle) ∧
    (∀ a, c.agent = some a → s.enabled a = false → s.enabled .seq = false →
      step s = .next { s with agenda := rest }.settle)

/-! ### 30_encoding.md: decoding -/

/-- Every command's word decodes to it, at every operand value the encoding admits, and it is the only word
that does: no command has two spellings. -/
def Obligations.DecodeAndEncodeAgree : Prop :=
  (∀ i : Instr, decode (encode i) = .command i ∧ decodeTableWord 32 (encode i).toNat = some i) ∧
  ∀ (w : Word) (i : Instr), decode w = .command i → encode i = w

/-- R102, with the masks and matches of R103 and the operands of R101 written out: a word spells a command
exactly when the row's mask and match say so, and is illegal where no row does. -/
def Obligations.WordSpellsCommandExactlyByMaskAndMatch : Prop :=
  ∀ w : Word,
    (decode w = .command .nop ↔ w &&& 0xFFFFFFFF#32 = 0x00000000#32) ∧
    (decode w = .command .dispNew ↔ w &&& 0xFFFFFFFF#32 = 0x10000000#32) ∧
    (decode w = .command .showImage ↔ w &&& 0xFFFFFFFF#32 = 0x20000000#32) ∧
    (decode w = .command .imgClear ↔ w &&& 0xFFFFFFFF#32 = 0x30000000#32) ∧
    (decode w = .command (.imgWrite (w.extractLsb' 24 4) (w.extractLsb' 20 4) (w.extractLsb' 0 8)) ↔
      w &&& 0xF00FFF00#32 = 0x40000000#32) ∧
    (decode w = .command (.imgRead (w.extractLsb' 24 4) (w.extractLsb' 20 4)) ↔
      w &&& 0xF00FFFFF#32 = 0x50000000#32) ∧
    (decode w = .command (.imgShiftLeft (w.extractLsb' 0 8)) ↔
      w &&& 0xFFFFFF00#32 = 0x60000000#32) ∧
    (decode w = .command (.btnNew (w.extractLsb' 24 4) (w.extractLsb' 20 4)) ↔
      w &&& 0xF00FFFFF#32 = 0x70000000#32) ∧
    (decode w = .command (.btnWasPressed (w.extractLsb' 24 4)) ↔
      w &&& 0xF0FFFFFF#32 = 0x80000000#32) ∧
    (decode w = .command (.btnIsPressed (w.extractLsb' 24 4)) ↔
      w &&& 0xF0FFFFFF#32 = 0x90000000#32) ∧
    (decode w = .command .csEnter ↔ w &&& 0xFFFFFFFF#32 = 0xA0000000#32) ∧
    (decode w = .command .csExit ↔ w &&& 0xFFFFFFFF#32 = 0xB0000000#32) ∧
    ((∀ o : Opcode, w &&& o.maskWord ≠ o.matchWord) → ∃ why, decode w = .illegal why)

/-- R104, R105: a word of a reserved `OP`, one that matches no row, and one with a bit set in `RSV` or in a
field its command does not use, is illegal: executing it writes code 3 and `RESULT` 0 and nothing else. -/
def Obligations.IllegalWordsRaiseIllegalCommand : Prop :=
  ∀ (w : Word) (s : State),
    (12 ≤ (w.extractLsb' 28 4).toNat ∨
      (∀ o : Opcode, w &&& o.maskWord ≠ o.matchWord) ∨
      w.extractLsb' 8 12 ≠ 0 ∨
      ((w.extractLsb' 28 4).toNat ∈ [0, 1, 2, 3, 10, 11] ∧ w.extractLsb' 0 28 ≠ 0) ∨
      ((w.extractLsb' 28 4).toNat ∈ [5, 7] ∧ w.extractLsb' 0 8 ≠ 0) ∨
      ((w.extractLsb' 28 4).toNat = 6 ∧ w.extractLsb' 20 8 ≠ 0) ∨
      ((w.extractLsb' 28 4).toNat ∈ [8, 9] ∧ (w.extractLsb' 20 4 ≠ 0 ∨ w.extractLsb' 0 8 ≠ 0))) →
    executeWord w s = .next { s with statusErr := 3, result := 0 }

/-- Words of 95_test_vectors.md decode to the commands they are listed as. -/
def Obligations.ListedWordsDecode : Prop :=
  decode 0x42300080#32 = .command (.imgWrite 2 3 128) ∧
  decode 0x52300000#32 = .command (.imgRead 2 3) ∧
  decode 0x600000FF#32 = .command (.imgShiftLeft 255) ∧
  decode 0x72100000#32 = .command (.btnNew 2 1) ∧
  decode 0x8F000000#32 = .command (.btnWasPressed 15) ∧
  decode 0x10000000#32 = .command .dispNew ∧
  decode 0xA0000000#32 = .command .csEnter ∧
  decode 0x61000001#32 = .illegal .unusedFieldSet

/-- A step whose choice is a write of a command's word to `CMD` runs that command: the step is `exec` of it
on the state without that choice (log entries 1 and 5), followed by the check of R61 (log entry 7). -/
def Obligations.StepRunsTheDecodedCommand : Prop :=
  ∀ (s : State) (w : Word) (i : Instr) (rest : List Choice), s.params.wellFormed = true →
    s.enabled .host = true → decode w = .command i →
    (s.agenda = .host (.write s.params.blockBase 4 w) :: rest →
      step s = settleOutcome (exec i { s with agenda := rest })) ∧
    step (s.withFetchWord 32 w.toNat) = settleOutcome (exec i s)

/-- In a state of the invariant the check after a command never acts, so the step is the command. -/
def Obligations.StepIsTheCommandInInvariantStates : Prop :=
  ∀ (s : State) (i : Instr), s.Inv → s.enabled .host = true →
    step (s.withFetchWord 32 (encode i).toNat) = exec i s

/-- The error code a command word's first failing check gives (R110, R272, R277 (a)): 0 where none fails. -/
def firstFailingCheck (i : Instr) (s : State) : Byte :=
  match i with
  | .nop => 0
  | .dispNew => if s.dispInit = true then 1 else 0
  | .showImage => if s.dispInit = false then 5 else 0
  | .imgClear => 0
  | .imgWrite row col _ => if 5 ≤ row.toNat ∨ 5 ≤ col.toNat then 4 else 0
  | .imgRead row col => if 5 ≤ row.toNat ∨ 5 ≤ col.toNat then 4 else 0
  | .imgShiftLeft _ => 0
  | .btnNew h k => if 4 ≤ h.toNat ∨ 2 ≤ k.toNat then 4 else 0
  | .btnWasPressed h =>
    if hh : h.toNat < 4 then (if (s.handles[h.toNat]).valid = false then 5 else 0) else 4
  | .btnIsPressed h =>
    if hh : h.toNat < 4 then (if (s.handles[h.toNat]).valid = false then 5 else 0) else 4
  | .csEnter => if s.csDepth = 255 then 6 else 0
  | .csExit => if s.csDepth = 0 then 6 else 0

/-- R110, R271, R272, R277 (a): every command completes, leaves the code of its first failing check in
`STATUS_ERR`, and where that is not 0 has written the code and `RESULT` 0 and nothing else; an operand at or
above its bound is exactly what code 4 reports. -/
def Obligations.FirstFailingCheckIsReported : Prop :=
  ∀ (i : Instr) (s : State), ∃ t, exec i s = .next t ∧
    t.statusErr = firstFailingCheck i s ∧
    (t.statusErr ≠ 0 → t = { s with statusErr := t.statusErr, result := 0 }) ∧
    (t.statusErr = 4 ↔ i.wellFormed = false)

/-! ### 40_image.md -/

/-- R131. -/
def Obligations.ImgClearZeroesTheStagingImage : Prop :=
  decode 0x30000000#32 = .command .imgClear ∧
  ∀ s : State, ∃ t, exec .imgClear s = .next t ∧
    t = { s with stage := t.stage, result := 0, statusErr := 0 } ∧
    ∀ r c, imageGet t.stage r c = 0

/-- R132. -/
def Obligations.ImgWriteSetsOneCell : Prop :=
  (∀ w : Word, w &&& 0xF00FFF00#32 = 0x40000000#32 → decode w = .command
    (.imgWrite (w.extractLsb' 24 4) (w.extractLsb' 20 4) (w.extractLsb' 0 8))) ∧
  ∀ (s : State) (row col : Nibble) (b : Byte),
    (row.toNat < 5 ∧ col.toNat < 5 → ∃ t, exec (.imgWrite row col b) s = .next t ∧
      t = { s with stage := t.stage, result := 0, statusErr := 0 } ∧
      ∀ r c : Fin 5, imageGet t.stage r c =
        if r.val = row.toNat ∧ c.val = col.toNat then b else imageGet s.stage r c) ∧
    (5 ≤ row.toNat ∨ 5 ≤ col.toNat →
      exec (.imgWrite row col b) s = .next { s with statusErr := 4, result := 0 })

/-- R133. -/
def Obligations.ImgReadAnswersOneCell : Prop :=
  (∀ w : Word, w &&& 0xF00FFFFF#32 = 0x50000000#32 → decode w = .command
    (.imgRead (w.extractLsb' 24 4) (w.extractLsb' 20 4))) ∧
  ∀ (s : State) (row col : Nibble),
    (∀ (hr : row.toNat < 5) (hc : col.toNat < 5), exec (.imgRead row col) s =
      .next { s with result := (s.stage[row.toNat][col.toNat]).setWidth 32, statusErr := 0 }) ∧
    (5 ≤ row.toNat ∨ 5 ≤ col.toNat →
      exec (.imgRead row col) s = .next { s with statusErr := 4, result := 0 })

/-- R134. -/
def Obligations.ImgShiftLeftShiftsEveryRow : Prop :=
  (∀ w : Word, w &&& 0xFFFFFF00#32 = 0x60000000#32 → decode w = .command
    (.imgShiftLeft (w.extractLsb' 0 8))) ∧
  ∀ (s : State) (n : Byte), ∃ t, exec (.imgShiftLeft n) s = .next t ∧
    t = { s with stage := t.stage, result := 0, statusErr := 0 } ∧
    ∀ r c : Fin 5, imageGet t.stage r c =
      if h : c.val + n.toNat < 5 then imageGet s.stage r ⟨c.val + n.toNat, h⟩ else 0

/-- R136. -/
def Obligations.HardwareImageFollowsTheCellMap : Prop :=
  ∀ (p : Params) (m : Image), p.wellFormed = true →
    (p.revision = .rev5x5 → ∀ r c : Fin 5, hwCell p m r.val c.val = imageGet m r c) ∧
    (∀ r c : Fin 5, hwCell p m (p.logicalToHw (r, c)).1 (p.logicalToHw (r, c)).2 = imageGet m r c) ∧
    (∀ hr hc, (∀ cell, p.logicalToHw cell ≠ (hr, hc)) → hwCell p m hr hc = 0)

/-- R35, R137 with R135: each row of `build_schedule(M)` holds every column once, at the time of its
brightness, ascending by time and by column where times are equal; that of the all-zero image is
`ZERO_SCHED`. -/
def Obligations.BuildScheduleSortsEveryRow : Prop :=
  (∀ (p : Params) (m : Image), p.wellFormed = true →
    (buildSchedule p m).length = p.rows ∧
    ∀ r < p.rows,
      ((schedRow (buildSchedule p m) r).map Entry.col).Perm (List.range p.cols) ∧
      (∀ e ∈ schedRow (buildSchedule p m) r,
        e.time.toNat = p.tpr * (hwCell p m r e.col).toNat / 255) ∧
      (schedRow (buildSchedule p m) r).Pairwise fun x y =>
        x.time.toNat < y.time.toNat ∨ (x.time.toNat = y.time.toNat ∧ x.col < y.col)) ∧
  ∀ p : Params, buildSchedule p zeroImage = zeroSched p

/-- R135, and R139 (a) to (e). -/
def Obligations.TimeOfProperties : Prop :=
  ∀ p : Params,
    (∀ b : Byte, timeOf p b = p.tpr * b.toNat / 255) ∧
    (∀ x y : Byte, x.toNat ≤ y.toNat → timeOf p x ≤ timeOf p y) ∧
    timeOf p 0 = 0 ∧
    timeOf p 255 = p.tpr ∧
    (∀ b : Byte, 1 ≤ timeOf p b ↔ 255 ≤ p.tpr * b.toNat) ∧
    (∀ b : Byte, timeOf p b ≤ p.tpr) ∧
    ∀ (m : Image) (r : Nat), ∃ k,
      (∀ e ∈ (schedRow (buildSchedule p m) r).take k, e.time.toNat = 0) ∧
      (∀ e ∈ (schedRow (buildSchedule p m) r).drop k, e.time.toNat ≠ 0)

/-! ### 41_display.md -/

/-- R161. -/
def Obligations.DispNewConstructsTheDisplayOnce : Prop :=
  decode 0x10000000#32 = .command .dispNew ∧
  ∀ s : State,
    (s.dispInit = false → exec .dispNew s = .next
      { s with
        dispInit := true, rowPin := List.replicate s.params.rows false,
        colOn := List.replicate s.params.cols false, active := zeroSched s.params,
        curRow := none, stepIdx := 0, trun := false, tcount := 0, cc0 := 0,
        cc1 := BitVec.ofNat 32 s.params.tpf, short1Clear := true, ev0 := false, ev1 := false,
        inten0 := true, inten1 := true, swpend := true, result := 0, statusErr := 0 }) ∧
    (s.dispInit = true → exec .dispNew s = .next { s with statusErr := 1, result := 0 })

/-- R162. -/
def Obligations.ShowPublishesTheStagingImage : Prop :=
  decode 0x20000000#32 = .command .showImage ∧
  ∀ s : State,
    (s.dispInit = true → exec .showImage s =
      .next { s with pending := buildSchedule s.params s.stage, result := 0, statusErr := 0 }) ∧
    (s.dispInit = false → exec .showImage s = .next { s with statusErr := 5, result := 0 })

/-- R165: when the timer has a step; one tick on any state; and its corner cases once the display is constructed: the counter runs 0 to
`TPF - 1`, the wrap sets `EV1`, and a `CC0` of 0 never matches. -/
def Obligations.TimerTickCountsAndMatches : Prop :=
  (∀ s : State, s.fault = false → (s.enabled .timer = true ↔ s.trun = true)) ∧
  (∀ s : State, ∃ n : BitVec 32, n.toNat = (s.tcount.toNat + 1) % 2 ^ 32 ∧
    timerTick s = { s with
      ev0 := s.ev0 || decide (n = s.cc0)
      ev1 := s.ev1 || decide (n = s.cc1)
      tcount := if n = s.cc1 ∧ s.short1Clear = true then 0 else n }) ∧
  ∀ s : State, s.Inv → s.dispInit = true →
    (timerTick s).tcount.toNat = (if s.tcount.toNat + 1 = s.params.tpf then 0 else s.tcount.toNat + 1) ∧
    (timerTick s).ev1 = (s.ev1 || decide (s.tcount.toNat + 1 = s.params.tpf)) ∧
    (timerTick s).ev0 = (s.ev0 || decide (s.tcount.toNat + 1 = s.cc0.toNat))

/-- R166, R167, R172: when the sequencer has a step; the take writes the phase only; the ENTRY phase clears the three requests; the CHECK
phase re-invokes exactly where the counter has reached `CC0` with no interrupt pending, and else returns. -/
def Obligations.InterruptEntryAndReturn : Prop :=
  ∀ s : State,
    (s.fault = false → (s.enabled .seq = true ↔
      s.seqPhase ≠ .idle ∨ (s.irqLine = true ∧ s.csDepth = 0))) ∧
    (s.seqPhase = .idle → seqStep s = { s with seqPhase := .entry }) ∧
    (s.seqPhase = .entry →
      seqStep s = { s with ev0 := false, ev1 := false, swpend := false, seqPhase := .main } ∧
      (seqStep s).irqLine = false) ∧
    (s.seqPhase = .check →
      (s.cc0.toNat ≤ s.tcount.toNat ∧ s.irqLine = false → seqStep s = { s with seqPhase := .entry }) ∧
      (s.tcount.toNat < s.cc0.toNat ∨ s.irqLine = true → seqStep s = { s with seqPhase := .idle }))

/-- R60, R169, R273, R274: a MAIN phase that derives a row at or above R raises the fault, which writes
`FAULT`, `STATUS_ERR` and the kept reason only; so does a step that leaves an invariant of R61 broken
(R274 lets a model check them; log entry 7); a faulted block answers with its reason and has no step but
reset (log entry 10). -/
def Obligations.ContractViolationsStopTheBlock : Prop :=
  (∀ s : State, s.seqPhase = .main → s.params.rows ≤ s.tcount.toNat / s.params.tpr →
    seqStep s = { s with fault := true, statusErr := 2, faultReason := some .rowOutOfRange }) ∧
  (∀ (s : State) (k : ButtonId) (v : Bool) (rest : List Choice), s.params.wellFormed = true →
    s.fault = false → s.contractHolds = false → s.agenda = .env k v :: rest →
    step s = .next { envStep k v { s with agenda := rest } with
      fault := true, statusErr := 2, faultReason := some .invariantBroken }) ∧
  ∀ s : State, s.fault = true → s.params.wellFormed = true →
    (s.nextChoice.agent ≠ none → step s = .fault s.stopReason) ∧
    (∀ rawA rawB, s.nextChoice = .reset rawA rawB →
      ∃ t, step s = .next t ∧ t.fault = false ∧ t.statusErr = 0)

/-- R170: the row transition. -/
def Obligations.RowTransitionSelectsTheDerivedRow : Prop :=
  ∀ (s : State) (d : Nat), s.Inv → d < s.params.rows →
    rowTransition d s = { s with
      curRow := some d, active := if d = 0 then s.pending else s.active,
      rowPin := (rowTransition d s).rowPin, colOn := (rowTransition d s).colOn,
      stepIdx := (rowTransition d s).stepIdx } ∧
    (∀ r, (rowTransition d s).rowPin.getD r false = decide (r = d)) ∧
    (∀ e ∈ schedRow (rowTransition d s).active d,
      (rowTransition d s).colOn.getD e.col false = decide (e.time.toNat ≠ 0)) ∧
    (rowTransition d s).stepIdx =
      (schedRow (rowTransition d s).active d).countP fun e => decide (e.time.toNat = 0)

/-- R168 with R175: a MAIN phase with a row transition leaves exactly the entries not yet due lit, and
`STEP_IDX` counts the others. -/
def Obligations.MainAfterTransitionLightsTheUndueEntries : Prop :=
  ∀ s : State, s.Inv → s.seqPhase = .main → s.curRow ≠ some (s.tcount.toNat / s.params.tpr) →
    (seqStep s).seqPhase = .program ∧
    (seqStep s).curRow = some (s.tcount.toNat / s.params.tpr) ∧
    (seqStep s).stepIdx = (seqStep s).currentSchedule.countP
      (fun e => decide (e.time.toNat ≤ s.tcount.toNat % s.params.tpr)) ∧
    ∀ i (hi : i < (seqStep s).currentSchedule.length),
      (seqStep s).colOn.getD ((seqStep s).currentSchedule[i]).col false =
        decide ((seqStep s).stepIdx ≤ i) ∧
      (s.tcount.toNat % s.params.tpr < ((seqStep s).currentSchedule[i]).time.toNat ↔
        (seqStep s).stepIdx ≤ i)

/-- R168: a MAIN phase in the current row turns off the entries that are due, from `STEP_IDX` on, up to the
first that is not, and changes nothing else. -/
def Obligations.MainInTheCurrentRowTurnsOffTheDueEntries : Prop :=
  ∀ s : State, s.Inv → s.seqPhase = .main → s.curRow = some (s.tcount.toNat / s.params.tpr) →
    seqStep s = { s with
      colOn := (seqStep s).colOn, stepIdx := (seqStep s).stepIdx, seqPhase := .program } ∧
    s.stepIdx ≤ (seqStep s).stepIdx ∧ (seqStep s).stepIdx ≤ s.params.cols ∧
    ∀ i (hi : i < s.currentSchedule.length),
      (s.stepIdx ≤ i → i < (seqStep s).stepIdx →
        (s.currentSchedule[i]).time.toNat ≤ s.tcount.toNat % s.params.tpr ∧
        (seqStep s).colOn.getD (s.currentSchedule[i]).col false = false) ∧
      (i = (seqStep s).stepIdx → s.tcount.toNat % s.params.tpr < (s.currentSchedule[i]).time.toNat) ∧
      (i < s.stepIdx ∨ (seqStep s).stepIdx ≤ i →
        (seqStep s).colOn.getD (s.currentSchedule[i]).col false =
          s.colOn.getD (s.currentSchedule[i]).col false)

/-- R176: entries of one row with equal time are turned off in the same MAIN phase. -/
def Obligations.EqualTimesTurnOffTogether : Prop :=
  ∀ s : State, s.Inv → s.seqPhase = .main →
    ∀ i j (hi : i < (seqStep s).currentSchedule.length) (hj : j < (seqStep s).currentSchedule.length),
      ((seqStep s).currentSchedule[i]).time = ((seqStep s).currentSchedule[j]).time →
      (s.curRow ≠ some (s.tcount.toNat / s.params.tpr) ∨ (s.stepIdx ≤ i ∧ s.stepIdx ≤ j)) →
      (i < (seqStep s).stepIdx ↔ j < (seqStep s).stepIdx) ∧
      (i < (seqStep s).stepIdx →
        (seqStep s).colOn.getD ((seqStep s).currentSchedule[i]).col false = false ∧
        (seqStep s).colOn.getD ((seqStep s).currentSchedule[j]).col false = false)

/-- R171: the PROGRAM phase. -/
def Obligations.ProgramPhaseWritesTheNextDeadline : Prop :=
  ∀ (s : State) (r : Nat), s.Inv → s.seqPhase = .program → s.curRow = some r →
    seqStep s = { s with cc0 := (seqStep s).cc0, trun := true, seqPhase := .check } ∧
    (∀ hi : s.stepIdx < (schedRow s.active r).length,
      (seqStep s).cc0.toNat = r * s.params.tpr + ((schedRow s.active r)[s.stepIdx]).time.toNat) ∧
    ((schedRow s.active r).length = s.params.cols) ∧
    (s.params.cols ≤ s.stepIdx → (seqStep s).cc0.toNat = r * s.params.tpr + s.params.tpr)

/-- R177: whatever ticks and input changes fall between them, the PROGRAM phase writes a compare value
above the value the MAIN phase of the same pass captured, and at most the end of the row. -/
def Obligations.CompareValueIsAboveTheCapture : Prop :=
  ∀ (s u : State) (r : Nat), s.Inv → s.seqPhase = .main → u.Inv → u.seqPhase = .program →
    u.params = (seqStep s).params → u.curRow = (seqStep s).curRow →
    u.stepIdx = (seqStep s).stepIdx → u.active = (seqStep s).active → u.curRow = some r →
    s.tcount.toNat < (seqStep u).cc0.toNat ∧
    (seqStep u).cc0.toNat ≤ (r + 1) * s.params.tpr ∧ (r + 1) * s.params.tpr ≤ s.params.tpf

/-- R173: with no tick in between, a pass returns to IDLE within six steps from any of its phases. -/
def Obligations.PassWithoutTicksReturns : Prop :=
  ∀ s : State, s.Inv → ∃ k ≤ 6, (seqSteps k s).seqPhase = .idle ∧ (seqSteps k s).Inv

/-- R246, R278, R279: the sequencer touches only the elements it owns, moves through its phases in order, and
only its own step changes the phase. -/
def Obligations.SequencerOwnsItsStateAndPhases : Prop :=
  (∀ s : State, s.Inv → seqStep s = { s with
    colOn := (seqStep s).colOn, rowPin := (seqStep s).rowPin, curRow := (seqStep s).curRow,
    stepIdx := (seqStep s).stepIdx, active := (seqStep s).active, cc0 := (seqStep s).cc0,
    trun := (seqStep s).trun, ev0 := (seqStep s).ev0, ev1 := (seqStep s).ev1,
    swpend := (seqStep s).swpend, seqPhase := (seqStep s).seqPhase }) ∧
  ∀ s t : State, s.Inv → step s = .next t → s.nextChoice.agent ≠ none → t.seqPhase ≠ s.seqPhase →
    s.actor = some .seq ∧
    (s.seqPhase, t.seqPhase) ∈ [(SeqPhase.idle, SeqPhase.entry), (.entry, .main), (.main, .program),
      (.program, .check), (.check, .idle), (.check, .entry)]

/-- R161 (corner cases): DISP_NEW leaves the take enabled and no HOST step; the pass then selects row 0 at
counter value 0 and starts the timer, and as `PENDING` is `ZERO_SCHED` the first frame is blank. -/
def Obligations.FirstPassStartsABlankFrame : Prop :=
  ∀ s t : State, s.Inv → s.dispInit = false → s.csDepth = 0 → s.seqPhase = .idle →
    exec .dispNew s = .next t →
    t.irqLine = true ∧ t.enabled .seq = true ∧ t.enabled .host = false ∧
    (passOf t).Rendering ∧ (passOf t).curRow = some 0 ∧ (passOf t).tcount = 0 ∧
    (passOf t).active = s.pending ∧
    (s.pending = zeroSched s.params →
      (passOf t).stepIdx = s.params.cols ∧ (passOf t).cc0.toNat = s.params.tpr ∧
      ∀ r c, (passOf t).lit r c = false)

/-- An ideal run goes on: after a tick and the pass it triggers the display renders again, one counter
value on, and the frame swap happens exactly at the wrap. -/
def Obligations.IdealTickKeepsRendering : Prop :=
  ∀ s : State, s.Rendering → (idealTick s).Rendering ∧
    (idealTick s).count = (if s.count + 1 = s.params.tpf then 0 else s.count + 1) ∧
    (idealTick s).active = (if s.count + 1 = s.params.tpf then s.pending else s.active) ∧
    (idealTick s).pending = s.pending ∧ (idealTick s).params = s.params

/-- R174: in an ideal run the LED of an entry `(t, c)` of row `r` is lit exactly for the counter values
from `r*TPR` to below `r*TPR + t`. -/
def Obligations.IdealRunLightsEachLedForItsTime : Prop :=
  ∀ s : State, s.Rendering → ∀ r < s.params.rows, ∀ e ∈ schedRow s.active r,
    (s.lit r e.col = true ↔
      r * s.params.tpr ≤ s.count ∧ s.count < r * s.params.tpr + e.time.toNat)

/-- R178: a published schedule is active at most one frame of ideal ticks later. -/
def Obligations.PublishedScheduleIsActiveWithinAFrame : Prop :=
  ∀ s : State, s.Rendering → ∃ k, 1 ≤ k ∧ k ≤ s.params.tpf ∧
    (idealTick^[k] s).active = s.pending ∧ (idealTick^[k] s).count = 0 ∧ (idealTick^[k] s).Rendering

/-- R81, R140, R304: a command other than CS_ENTER, sampled inputs and input changes do not disturb an ideal
run: the display goes on rendering the same schedule. -/
def Obligations.CooperativeStepsKeepRendering : Prop :=
  ∀ s : State, s.Rendering →
    (∀ i t, i ≠ .csEnter → exec i s = .next t → t.Rendering ∧ t.active = s.active) ∧
    (samplerStep s).Rendering ∧ ∀ k v, (envStep k v s).Rendering

/-- R56, R180: until reset nothing releases the display, stops its timer, disables its interrupt or stops
the sampler. -/
def Obligations.DisplayIsNeverReleased : Prop :=
  ∀ s t : State, s.Inv → step s = .next t → s.nextChoice.agent ≠ none →
    (s.dispInit = true → t.dispInit = true) ∧ (s.trun = true → t.trun = true) ∧
    (s.inten0 = true → t.inten0 = true) ∧ (s.inten1 = true → t.inten1 = true) ∧
    (s.samplerRun = true → t.samplerRun = true)

/-! ### 42_button.md -/

/-- R211. -/
def Obligations.BtnNewBindsTheHandle : Prop :=
  (∀ w : Word, w &&& 0xF00FFFFF#32 = 0x70000000#32 → decode w = .command
    (.btnNew (w.extractLsb' 24 4) (w.extractLsb' 20 4))) ∧
  ∀ (s : State) (h k : Nibble),
    (∀ btn, h.toNat < 4 → (k.toNat = 0 ∧ btn = .a ∨ k.toNat = 1 ∧ btn = .b) →
      ∃ t, exec (.btnNew h k) s = .next t ∧
        t = { s with handles := t.handles, samplerRun := true, result := 0, statusErr := 0 } ∧
        ∀ j : Fin 4, t.handles[j] =
          if j.val = h.toNat then { valid := true, btn := btn, last := (s.button btn).pressCount }
          else s.handles[j]) ∧
    (4 ≤ h.toNat ∨ 2 ≤ k.toNat → exec (.btnNew h k) s = .next { s with statusErr := 4, result := 0 })

/-- R212, R219. -/
def Obligations.BtnWasPressedComparesAndUpdatesTheSnapshot : Prop :=
  (∀ w : Word, w &&& 0xF0FFFFFF#32 = 0x80000000#32 → decode w = .command
    (.btnWasPressed (w.extractLsb' 24 4))) ∧
  ∀ (s : State) (h : Nibble),
    (∀ hh : h.toNat < 4, (s.handles[h.toNat]).valid = true →
      ∃ t, exec (.btnWasPressed h) s = .next t ∧
        t = { s with handles := t.handles, result := t.result, statusErr := 0 } ∧
        t.result = (if (s.button (s.handles[h.toNat]).btn).pressCount ≠ (s.handles[h.toNat]).last
          then 1 else 0) ∧
        t.handles[h.toNat] = { s.handles[h.toNat] with
          last := (s.button (s.handles[h.toNat]).btn).pressCount } ∧
        ∀ j : Fin 4, j.val ≠ h.toNat → t.handles[j] = s.handles[j]) ∧
    (∀ hh : h.toNat < 4, (s.handles[h.toNat]).valid = false →
      exec (.btnWasPressed h) s = .next { s with statusErr := 5, result := 0 }) ∧
    (4 ≤ h.toNat → exec (.btnWasPressed h) s = .next { s with statusErr := 4, result := 0 })

/-- R213. -/
def Obligations.BtnIsPressedAnswersTheRawInput : Prop :=
  (∀ w : Word, w &&& 0xF0FFFFFF#32 = 0x90000000#32 → decode w = .command
    (.btnIsPressed (w.extractLsb' 24 4))) ∧
  ∀ (s : State) (h : Nibble),
    (∀ hh : h.toNat < 4, (s.handles[h.toNat]).valid = true →
      exec (.btnIsPressed h) s = .next { s with
        result := (if (s.button (s.handles[h.toNat]).btn).raw = true then 1 else 0), statusErr := 0 }) ∧
    (∀ hh : h.toNat < 4, (s.handles[h.toNat]).valid = false →
      exec (.btnIsPressed h) s = .next { s with statusErr := 5, result := 0 }) ∧
    (4 ≤ h.toNat → exec (.btnIsPressed h) s = .next { s with statusErr := 4, result := 0 })

/-- R214, R215, R216: the SAMPLER step updates each button by the filter; the ENV step writes one raw input. -/
def Obligations.SamplerAndInputSteps : Prop :=
  ∀ s : State,
    samplerStep s = { s with btnA := sampleUpdate s.btnA, btnB := sampleUpdate s.btnB } ∧
    (∀ v, envStep .a v s = { s with btnA := { s.btnA with raw := v } } ∧
      envStep .b v s = { s with btnB := { s.btnB with raw := v } }) ∧
    ∀ b : Button, ∃ sigma : Nat,
      sigma = (if b.raw = true then min (b.sigma + 1) 12 else max (b.sigma - 1) 0) ∧
      (8 < sigma ∧ b.latched = false →
        sampleUpdate b = ⟨b.raw, sigma, true, b.pressCount + 1⟩) ∧
      (sigma < 2 ∧ b.latched = true → sampleUpdate b = ⟨b.raw, sigma, false, b.pressCount⟩) ∧
      (¬(8 < sigma ∧ b.latched = false) ∧ ¬(sigma < 2 ∧ b.latched = true) →
        sampleUpdate b = ⟨b.raw, sigma, b.latched, b.pressCount⟩)

/-- R217 (a) to (f). -/
def Obligations.HysteresisOfTheFilter : Prop :=
  (∀ s k, Reachable s → if (s.button k).latched then 2 ≤ (s.button k).sigma else (s.button k).sigma ≤ 8) ∧
  (∀ (n : Nat) (x : Word), sampleUpdate^[n] ⟨true, 0, false, x⟩ =
    ⟨true, min n 12, decide (9 ≤ n), if 9 ≤ n then x + 1 else x⟩) ∧
  (∀ (sig n : Nat) (x : Word), 9 ≤ sig → sig ≤ 12 → n < sig →
    sampleUpdate^[n] ⟨false, sig, true, x⟩ = ⟨false, sig - n, decide (n < sig - 1), x⟩) ∧
  (∀ b : Button, (b.latched = true → 2 ≤ (sampleUpdate b).sigma →
      sampleUpdate b = { b with sigma := (sampleUpdate b).sigma }) ∧
    (b.latched = false → (sampleUpdate b).sigma ≤ 8 →
      sampleUpdate b = { b with sigma := (sampleUpdate b).sigma })) ∧
  (∀ (n : Nat) (x : Word), n ≤ 8 → sampleUpdate^[n] ⟨true, 1, false, x⟩ =
    ⟨true, n + 1, decide (n = 8), if n = 8 then x + 1 else x⟩) ∧
  ∀ x : Word, sampleUpdate ⟨true, 0, false, x⟩ = ⟨true, 1, false, x⟩

/-- R55, R218: over every step that is not a reset, a press counter advances by one exactly where the latch
is set, and is otherwise unchanged. -/
def Obligations.EveryLatchingCountsOnePress : Prop :=
  ∀ (s t : State) (k : ButtonId), step s = .next t → s.nextChoice.agent ≠ none →
    (t.button k).pressCount =
      if (s.button k).latched = false ∧ (t.button k).latched = true
      then (s.button k).pressCount + 1 else (s.button k).pressCount

/-! ### 43_control.md -/

/-- R240. -/
def Obligations.NopWritesResultAndStatusOnly : Prop :=
  (∀ s : State, exec .nop s = .next { s with result := 0, statusErr := 0 }) ∧
  decode 0x00000000#32 = .command .nop ∧
  ∀ (w : Word) (s : State), w.extractLsb' 28 4 = 0 → w ≠ 0 →
    executeWord w s = .next { s with statusErr := 3, result := 0 }

/-- R241, R242; the CS_EXIT that ends the outermost section leaves a pending interrupt to be taken before any
HOST or SAMPLER step. -/
def Obligations.CriticalSectionDepth : Prop :=
  decode 0xA0000000#32 = .command .csEnter ∧ decode 0xB0000000#32 = .command .csExit ∧
  ∀ s : State,
    (s.csDepth.toNat < 255 → ∃ d : BitVec 8, d.toNat = s.csDepth.toNat + 1 ∧
      exec .csEnter s = .next { s with csDepth := d, result := 0, statusErr := 0 }) ∧
    (s.csDepth.toNat = 255 → exec .csEnter s = .next { s with statusErr := 6, result := 0 }) ∧
    (0 < s.csDepth.toNat → ∃ d : BitVec 8, d.toNat + 1 = s.csDepth.toNat ∧
      exec .csExit s = .next { s with csDepth := d, result := 0, statusErr := 0 }) ∧
    (s.csDepth.toNat = 0 → exec .csExit s = .next { s with statusErr := 6, result := 0 }) ∧
    (s.csDepth.toNat = 1 → s.seqPhase = .idle → s.irqLine = true → ∀ t, exec .csExit s = .next t →
      t.take = true ∧ t.enabled .host = false ∧ t.enabled .sampler = false)

/-! ### 30_encoding.md R109, 44_scroll.md: host procedures -/

/-- R109, R261, R262: after `SHOW_IMAGE M` the published schedule is that of `M`; the columns `trim` keeps;
what shifting in one column leaves in the staging image. -/
def Obligations.HostProceduresBuildTheirImages : Prop :=
  (∀ (s : State) (m : Image), s.dispInit = true →
    execAll (showImageOf m) s = .next { s with
      stage := m, pending := buildSchedule s.params m, result := 0, statusErr := 0 }) ∧
  (∀ g : Image, (trim g).Pairwise (· < ·) ∧ ∀ j, j ∈ trim g ↔
    ∃ a b, a ≤ j ∧ j ≤ b ∧ blankColumn g a = false ∧ blankColumn g b = false) ∧
  (∀ (g : Image) (j : Fin 5), blankColumn g j = true ↔ ∀ lr, imageGet g lr j = 0) ∧
  ∀ (s : State) (values : Fin 5 → Byte), ∃ t, execAll (shiftInColumn values) s = .next t ∧
    t = { s with stage := t.stage, result := 0, statusErr := 0 } ∧
    ∀ r c : Fin 5, imageGet t.stage r c =
      if h : c.val + 1 < 5 then imageGet s.stage r ⟨c.val + 1, h⟩ else values r

/-! ### 60_exceptions.md, 70_reset_and_hazards.md -/

/-- R274: no run from reset faults. -/
def Obligations.NoReachableStateFaults : Prop :=
  ∀ s : State, Reachable s → SafeOutcome (step s)

/-- Reset sets every element, from any state and with the raw inputs drawn (R300, R301); the parameters stay; no
interrupt is requested, every register reads 0 and no LED is lit. That a reset stands among the choices and
leaves `readData`, the agenda and the draw counter is the model's choice (log entry 11). -/
def Obligations.ResetSetsEveryElement : Prop :=
  ∀ (s : State) (rawA rawB : Bool), s.params.wellFormed = true →
    s.nextChoice = .reset rawA rawB →
    ∃ t, step s = .next t ∧ t = {
      params := s.params, stage := Vector.replicate 5 (Vector.replicate 5 0),
      pending := zeroSched s.params, active := zeroSched s.params, dispInit := false,
      rowPin := List.replicate s.params.rows false, colOn := List.replicate s.params.cols false,
      curRow := none, stepIdx := 0, tcount := 0, trun := false, cc0 := 0, cc1 := 0, ev0 := false,
      ev1 := false, inten0 := false, inten1 := false, short1Clear := false, swpend := false,
      seqPhase := .idle, csDepth := 0,
      btnA := { raw := rawA, sigma := 0, latched := false, pressCount := 0 },
      btnB := { raw := rawB, sigma := 0, latched := false, pressCount := 0 },
      samplerRun := false, handles := Vector.replicate 4 { valid := false, btn := .a, last := 0 },
      result := 0, statusErr := 0, fault := false, faultReason := none, readData := s.readData,
      agenda := s.dropChoice.agenda, draws := s.dropChoice.draws } ∧
    t.irqLine = false ∧ (∀ reg, readReg t reg = 0) ∧ ∀ r c, t.lit r c = false

/-- R302: after reset only HOST and ENV can act; the interrupt is disabled and not masked. -/
def Obligations.OnlyHostAndInputsActAfterReset : Prop :=
  ∀ p rawA rawB agenda draws,
    (State.fresh p rawA rawB agenda draws).enabled .timer = false ∧
    (State.fresh p rawA rawB agenda draws).enabled .seq = false ∧
    (State.fresh p rawA rawB agenda draws).enabled .sampler = false ∧
    (State.fresh p rawA rawB agenda draws).enabled .host = true ∧
    (State.fresh p rawA rawB agenda draws).enabled .env = true ∧
    (State.fresh p rawA rawB agenda draws).irqLine = false ∧
    (State.fresh p rawA rawB agenda draws).inten0 = false ∧
    (State.fresh p rawA rawB agenda draws).inten1 = false ∧
    (State.fresh p rawA rawB agenda draws).csDepth = 0

/-- R82, R275, R277 (c): an interrupt that may be taken is taken at the first choice that is not a tick or an
input change, before any HOST or SAMPLER step, which then still waits. -/
def Obligations.PendingInterruptIsTakenBeforeCooperativeSteps : Prop :=
  ∀ (s : State) (cs : List Choice) (c : Choice) (rest : List Choice), s.Inv → s.take = true →
    (∀ x ∈ cs, x = .timer ∨ ∃ k v, x = .env k v) →
    (c = .seq ∨ c = .sampler ∨ ∃ op, c = .host op) → s.agenda = cs ++ c :: rest →
    ∃ t : State, Sys2Proof.core.run (cs.length + 1) s = .next t ∧ t.seqPhase = .entry ∧
      t.csDepth = 0 ∧ t.stage = s.stage ∧ t.handles = s.handles ∧ t.result = s.result ∧
      t.statusErr = s.statusErr ∧ t.agenda = (if c = .seq then rest else c :: rest)

/-! ### 44_scroll.md: the host program beside the other agents -/

/-- R82, R109, R260: the choices of a host program with any intervals are exactly the lists in which the HOST's
accesses are those of the program's lines, in order, with any steps of the other agents anywhere between them.
The list of choices is the model's form of an order of steps (log entries 1 and 13). -/
def Obligations.ProgramInterleavesWithEveryOtherAgent : Prop :=
  ∀ (p : Params) (lines : List HostAct) (cs : List Choice),
    (∃ intervals, programAgenda p lines intervals = cs) ↔
      (∀ c ∈ cs, (c = .timer ∨ c = .seq ∨ c = .sampler ∨ ∃ k v, c = .env k v) ∨ ∃ op, c = .host op) ∧
      hostAccesses cs = lines.filterMap fun l => l.op? p

/-- R260, R264: a SHOW followed by a suspension of at least one frame of ideal ticks: when the HOST issues its
next line the published schedule is active and the display renders it. The list of choices is the model's form
of the suspension (log entries 1 and 13). -/
def Obligations.ShownImageIsActiveAfterTheSuspension : Prop :=
  ∀ (s : State) (n : Nat) (rest : List HostAct) (intervals : List (List Choice)),
    s.Rendering → s.params.tpf ≤ n →
    s.agenda = programAgenda s.params (.cmd .showImage :: .suspend :: rest)
      ([] :: idealInterval n :: intervals) →
    ∃ t : State, Sys2Proof.core.run (1 + 6 * n) s = .next t ∧ t.Rendering ∧
      t.active = buildSchedule s.params s.stage ∧ t.stage = s.stage ∧
      t.agenda = programAgenda s.params rest intervals
end

