-- ==== Sys2Proof/Laws/State.lean ====
section
/-! SUPPORT. One lemma per field of State for each shared operation, so that no proof unfolds a record
update. -/

namespace Sys2Proof.Machine.State

open Sys2Proof Sys2Proof.Machine

/-! ### A command's successful end (R110) -/

@[simp] theorem complete_params (s : State) (answer : Word) : (s.complete answer).params = s.params := rfl
@[simp] theorem complete_stage (s : State) (answer : Word) : (s.complete answer).stage = s.stage := rfl
@[simp] theorem complete_pending (s : State) (answer : Word) : (s.complete answer).pending = s.pending := rfl
@[simp] theorem complete_active (s : State) (answer : Word) : (s.complete answer).active = s.active := rfl
@[simp] theorem complete_dispInit (s : State) (answer : Word) : (s.complete answer).dispInit = s.dispInit := rfl
@[simp] theorem complete_rowPin (s : State) (answer : Word) : (s.complete answer).rowPin = s.rowPin := rfl
@[simp] theorem complete_colOn (s : State) (answer : Word) : (s.complete answer).colOn = s.colOn := rfl
@[simp] theorem complete_curRow (s : State) (answer : Word) : (s.complete answer).curRow = s.curRow := rfl
@[simp] theorem complete_stepIdx (s : State) (answer : Word) : (s.complete answer).stepIdx = s.stepIdx := rfl
@[simp] theorem complete_tcount (s : State) (answer : Word) : (s.complete answer).tcount = s.tcount := rfl
@[simp] theorem complete_trun (s : State) (answer : Word) : (s.complete answer).trun = s.trun := rfl
@[simp] theorem complete_cc0 (s : State) (answer : Word) : (s.complete answer).cc0 = s.cc0 := rfl
@[simp] theorem complete_cc1 (s : State) (answer : Word) : (s.complete answer).cc1 = s.cc1 := rfl
@[simp] theorem complete_ev0 (s : State) (answer : Word) : (s.complete answer).ev0 = s.ev0 := rfl
@[simp] theorem complete_ev1 (s : State) (answer : Word) : (s.complete answer).ev1 = s.ev1 := rfl
@[simp] theorem complete_inten0 (s : State) (answer : Word) : (s.complete answer).inten0 = s.inten0 := rfl
@[simp] theorem complete_inten1 (s : State) (answer : Word) : (s.complete answer).inten1 = s.inten1 := rfl
@[simp] theorem complete_short1Clear (s : State) (answer : Word) : (s.complete answer).short1Clear = s.short1Clear := rfl
@[simp] theorem complete_swpend (s : State) (answer : Word) : (s.complete answer).swpend = s.swpend := rfl
@[simp] theorem complete_seqPhase (s : State) (answer : Word) : (s.complete answer).seqPhase = s.seqPhase := rfl
@[simp] theorem complete_csDepth (s : State) (answer : Word) : (s.complete answer).csDepth = s.csDepth := rfl
@[simp] theorem complete_btnA (s : State) (answer : Word) : (s.complete answer).btnA = s.btnA := rfl
@[simp] theorem complete_btnB (s : State) (answer : Word) : (s.complete answer).btnB = s.btnB := rfl
@[simp] theorem complete_samplerRun (s : State) (answer : Word) : (s.complete answer).samplerRun = s.samplerRun := rfl
@[simp] theorem complete_handles (s : State) (answer : Word) : (s.complete answer).handles = s.handles := rfl
@[simp] theorem complete_result (s : State) (answer : Word) : (s.complete answer).result = answer := rfl
@[simp] theorem complete_statusErr (s : State) (answer : Word) : (s.complete answer).statusErr = 0 := rfl
@[simp] theorem complete_fault (s : State) (answer : Word) : (s.complete answer).fault = s.fault := rfl
@[simp] theorem complete_faultReason (s : State) (answer : Word) : (s.complete answer).faultReason = s.faultReason := rfl
@[simp] theorem complete_readData (s : State) (answer : Word) : (s.complete answer).readData = s.readData := rfl
@[simp] theorem complete_agenda (s : State) (answer : Word) : (s.complete answer).agenda = s.agenda := rfl
@[simp] theorem complete_draws (s : State) (answer : Word) : (s.complete answer).draws = s.draws := rfl

/-! ### A command error (R271) -/

@[simp] theorem cmdError_params (s : State) (e : ErrorCode) : (s.cmdError e).params = s.params := rfl
@[simp] theorem cmdError_stage (s : State) (e : ErrorCode) : (s.cmdError e).stage = s.stage := rfl
@[simp] theorem cmdError_pending (s : State) (e : ErrorCode) : (s.cmdError e).pending = s.pending := rfl
@[simp] theorem cmdError_active (s : State) (e : ErrorCode) : (s.cmdError e).active = s.active := rfl
@[simp] theorem cmdError_dispInit (s : State) (e : ErrorCode) : (s.cmdError e).dispInit = s.dispInit := rfl
@[simp] theorem cmdError_rowPin (s : State) (e : ErrorCode) : (s.cmdError e).rowPin = s.rowPin := rfl
@[simp] theorem cmdError_colOn (s : State) (e : ErrorCode) : (s.cmdError e).colOn = s.colOn := rfl
@[simp] theorem cmdError_curRow (s : State) (e : ErrorCode) : (s.cmdError e).curRow = s.curRow := rfl
@[simp] theorem cmdError_stepIdx (s : State) (e : ErrorCode) : (s.cmdError e).stepIdx = s.stepIdx := rfl
@[simp] theorem cmdError_tcount (s : State) (e : ErrorCode) : (s.cmdError e).tcount = s.tcount := rfl
@[simp] theorem cmdError_trun (s : State) (e : ErrorCode) : (s.cmdError e).trun = s.trun := rfl
@[simp] theorem cmdError_cc0 (s : State) (e : ErrorCode) : (s.cmdError e).cc0 = s.cc0 := rfl
@[simp] theorem cmdError_cc1 (s : State) (e : ErrorCode) : (s.cmdError e).cc1 = s.cc1 := rfl
@[simp] theorem cmdError_ev0 (s : State) (e : ErrorCode) : (s.cmdError e).ev0 = s.ev0 := rfl
@[simp] theorem cmdError_ev1 (s : State) (e : ErrorCode) : (s.cmdError e).ev1 = s.ev1 := rfl
@[simp] theorem cmdError_inten0 (s : State) (e : ErrorCode) : (s.cmdError e).inten0 = s.inten0 := rfl
@[simp] theorem cmdError_inten1 (s : State) (e : ErrorCode) : (s.cmdError e).inten1 = s.inten1 := rfl
@[simp] theorem cmdError_short1Clear (s : State) (e : ErrorCode) : (s.cmdError e).short1Clear = s.short1Clear := rfl
@[simp] theorem cmdError_swpend (s : State) (e : ErrorCode) : (s.cmdError e).swpend = s.swpend := rfl
@[simp] theorem cmdError_seqPhase (s : State) (e : ErrorCode) : (s.cmdError e).seqPhase = s.seqPhase := rfl
@[simp] theorem cmdError_csDepth (s : State) (e : ErrorCode) : (s.cmdError e).csDepth = s.csDepth := rfl
@[simp] theorem cmdError_btnA (s : State) (e : ErrorCode) : (s.cmdError e).btnA = s.btnA := rfl
@[simp] theorem cmdError_btnB (s : State) (e : ErrorCode) : (s.cmdError e).btnB = s.btnB := rfl
@[simp] theorem cmdError_samplerRun (s : State) (e : ErrorCode) : (s.cmdError e).samplerRun = s.samplerRun := rfl
@[simp] theorem cmdError_handles (s : State) (e : ErrorCode) : (s.cmdError e).handles = s.handles := rfl
@[simp] theorem cmdError_result (s : State) (e : ErrorCode) : (s.cmdError e).result = 0 := rfl
@[simp] theorem cmdError_statusErr (s : State) (e : ErrorCode) : (s.cmdError e).statusErr = e.code := rfl
@[simp] theorem cmdError_fault (s : State) (e : ErrorCode) : (s.cmdError e).fault = s.fault := rfl
@[simp] theorem cmdError_faultReason (s : State) (e : ErrorCode) : (s.cmdError e).faultReason = s.faultReason := rfl
@[simp] theorem cmdError_readData (s : State) (e : ErrorCode) : (s.cmdError e).readData = s.readData := rfl
@[simp] theorem cmdError_agenda (s : State) (e : ErrorCode) : (s.cmdError e).agenda = s.agenda := rfl
@[simp] theorem cmdError_draws (s : State) (e : ErrorCode) : (s.cmdError e).draws = s.draws := rfl

/-! ### A fault (R273) -/

@[simp] theorem raiseFault_params (s : State) (info : Fault) : (s.raiseFault info).params = s.params := rfl
@[simp] theorem raiseFault_stage (s : State) (info : Fault) : (s.raiseFault info).stage = s.stage := rfl
@[simp] theorem raiseFault_pending (s : State) (info : Fault) : (s.raiseFault info).pending = s.pending := rfl
@[simp] theorem raiseFault_active (s : State) (info : Fault) : (s.raiseFault info).active = s.active := rfl
@[simp] theorem raiseFault_dispInit (s : State) (info : Fault) : (s.raiseFault info).dispInit = s.dispInit := rfl
@[simp] theorem raiseFault_rowPin (s : State) (info : Fault) : (s.raiseFault info).rowPin = s.rowPin := rfl
@[simp] theorem raiseFault_colOn (s : State) (info : Fault) : (s.raiseFault info).colOn = s.colOn := rfl
@[simp] theorem raiseFault_curRow (s : State) (info : Fault) : (s.raiseFault info).curRow = s.curRow := rfl
@[simp] theorem raiseFault_stepIdx (s : State) (info : Fault) : (s.raiseFault info).stepIdx = s.stepIdx := rfl
@[simp] theorem raiseFault_tcount (s : State) (info : Fault) : (s.raiseFault info).tcount = s.tcount := rfl
@[simp] theorem raiseFault_trun (s : State) (info : Fault) : (s.raiseFault info).trun = s.trun := rfl
@[simp] theorem raiseFault_cc0 (s : State) (info : Fault) : (s.raiseFault info).cc0 = s.cc0 := rfl
@[simp] theorem raiseFault_cc1 (s : State) (info : Fault) : (s.raiseFault info).cc1 = s.cc1 := rfl
@[simp] theorem raiseFault_ev0 (s : State) (info : Fault) : (s.raiseFault info).ev0 = s.ev0 := rfl
@[simp] theorem raiseFault_ev1 (s : State) (info : Fault) : (s.raiseFault info).ev1 = s.ev1 := rfl
@[simp] theorem raiseFault_inten0 (s : State) (info : Fault) : (s.raiseFault info).inten0 = s.inten0 := rfl
@[simp] theorem raiseFault_inten1 (s : State) (info : Fault) : (s.raiseFault info).inten1 = s.inten1 := rfl
@[simp] theorem raiseFault_short1Clear (s : State) (info : Fault) : (s.raiseFault info).short1Clear = s.short1Clear := rfl
@[simp] theorem raiseFault_swpend (s : State) (info : Fault) : (s.raiseFault info).swpend = s.swpend := rfl
@[simp] theorem raiseFault_seqPhase (s : State) (info : Fault) : (s.raiseFault info).seqPhase = s.seqPhase := rfl
@[simp] theorem raiseFault_csDepth (s : State) (info : Fault) : (s.raiseFault info).csDepth = s.csDepth := rfl
@[simp] theorem raiseFault_btnA (s : State) (info : Fault) : (s.raiseFault info).btnA = s.btnA := rfl
@[simp] theorem raiseFault_btnB (s : State) (info : Fault) : (s.raiseFault info).btnB = s.btnB := rfl
@[simp] theorem raiseFault_samplerRun (s : State) (info : Fault) : (s.raiseFault info).samplerRun = s.samplerRun := rfl
@[simp] theorem raiseFault_handles (s : State) (info : Fault) : (s.raiseFault info).handles = s.handles := rfl
@[simp] theorem raiseFault_result (s : State) (info : Fault) : (s.raiseFault info).result = s.result := rfl
@[simp] theorem raiseFault_statusErr (s : State) (info : Fault) : (s.raiseFault info).statusErr = 2 := rfl
@[simp] theorem raiseFault_fault (s : State) (info : Fault) : (s.raiseFault info).fault = true := rfl
@[simp] theorem raiseFault_faultReason (s : State) (info : Fault) : (s.raiseFault info).faultReason = some info := rfl
@[simp] theorem raiseFault_readData (s : State) (info : Fault) : (s.raiseFault info).readData = s.readData := rfl
@[simp] theorem raiseFault_agenda (s : State) (info : Fault) : (s.raiseFault info).agenda = s.agenda := rfl
@[simp] theorem raiseFault_draws (s : State) (info : Fault) : (s.raiseFault info).draws = s.draws := rfl

/-! ### Interrupt entry (R278) -/

@[simp] theorem interruptEntry_params (s : State) : (s.interruptEntry).params = s.params := rfl
@[simp] theorem interruptEntry_stage (s : State) : (s.interruptEntry).stage = s.stage := rfl
@[simp] theorem interruptEntry_pending (s : State) : (s.interruptEntry).pending = s.pending := rfl
@[simp] theorem interruptEntry_active (s : State) : (s.interruptEntry).active = s.active := rfl
@[simp] theorem interruptEntry_dispInit (s : State) : (s.interruptEntry).dispInit = s.dispInit := rfl
@[simp] theorem interruptEntry_rowPin (s : State) : (s.interruptEntry).rowPin = s.rowPin := rfl
@[simp] theorem interruptEntry_colOn (s : State) : (s.interruptEntry).colOn = s.colOn := rfl
@[simp] theorem interruptEntry_curRow (s : State) : (s.interruptEntry).curRow = s.curRow := rfl
@[simp] theorem interruptEntry_stepIdx (s : State) : (s.interruptEntry).stepIdx = s.stepIdx := rfl
@[simp] theorem interruptEntry_tcount (s : State) : (s.interruptEntry).tcount = s.tcount := rfl
@[simp] theorem interruptEntry_trun (s : State) : (s.interruptEntry).trun = s.trun := rfl
@[simp] theorem interruptEntry_cc0 (s : State) : (s.interruptEntry).cc0 = s.cc0 := rfl
@[simp] theorem interruptEntry_cc1 (s : State) : (s.interruptEntry).cc1 = s.cc1 := rfl
@[simp] theorem interruptEntry_ev0 (s : State) : (s.interruptEntry).ev0 = s.ev0 := rfl
@[simp] theorem interruptEntry_ev1 (s : State) : (s.interruptEntry).ev1 = s.ev1 := rfl
@[simp] theorem interruptEntry_inten0 (s : State) : (s.interruptEntry).inten0 = s.inten0 := rfl
@[simp] theorem interruptEntry_inten1 (s : State) : (s.interruptEntry).inten1 = s.inten1 := rfl
@[simp] theorem interruptEntry_short1Clear (s : State) : (s.interruptEntry).short1Clear = s.short1Clear := rfl
@[simp] theorem interruptEntry_swpend (s : State) : (s.interruptEntry).swpend = s.swpend := rfl
@[simp] theorem interruptEntry_seqPhase (s : State) : (s.interruptEntry).seqPhase = .entry := rfl
@[simp] theorem interruptEntry_csDepth (s : State) : (s.interruptEntry).csDepth = s.csDepth := rfl
@[simp] theorem interruptEntry_btnA (s : State) : (s.interruptEntry).btnA = s.btnA := rfl
@[simp] theorem interruptEntry_btnB (s : State) : (s.interruptEntry).btnB = s.btnB := rfl
@[simp] theorem interruptEntry_samplerRun (s : State) : (s.interruptEntry).samplerRun = s.samplerRun := rfl
@[simp] theorem interruptEntry_handles (s : State) : (s.interruptEntry).handles = s.handles := rfl
@[simp] theorem interruptEntry_result (s : State) : (s.interruptEntry).result = s.result := rfl
@[simp] theorem interruptEntry_statusErr (s : State) : (s.interruptEntry).statusErr = s.statusErr := rfl
@[simp] theorem interruptEntry_fault (s : State) : (s.interruptEntry).fault = s.fault := rfl
@[simp] theorem interruptEntry_faultReason (s : State) : (s.interruptEntry).faultReason = s.faultReason := rfl
@[simp] theorem interruptEntry_readData (s : State) : (s.interruptEntry).readData = s.readData := rfl
@[simp] theorem interruptEntry_agenda (s : State) : (s.interruptEntry).agenda = s.agenda := rfl
@[simp] theorem interruptEntry_draws (s : State) : (s.interruptEntry).draws = s.draws := rfl

/-! ### Return from the interrupt (R279) -/

@[simp] theorem interruptReturn_params (s : State) : (s.interruptReturn).params = s.params := rfl
@[simp] theorem interruptReturn_stage (s : State) : (s.interruptReturn).stage = s.stage := rfl
@[simp] theorem interruptReturn_pending (s : State) : (s.interruptReturn).pending = s.pending := rfl
@[simp] theorem interruptReturn_active (s : State) : (s.interruptReturn).active = s.active := rfl
@[simp] theorem interruptReturn_dispInit (s : State) : (s.interruptReturn).dispInit = s.dispInit := rfl
@[simp] theorem interruptReturn_rowPin (s : State) : (s.interruptReturn).rowPin = s.rowPin := rfl
@[simp] theorem interruptReturn_colOn (s : State) : (s.interruptReturn).colOn = s.colOn := rfl
@[simp] theorem interruptReturn_curRow (s : State) : (s.interruptReturn).curRow = s.curRow := rfl
@[simp] theorem interruptReturn_stepIdx (s : State) : (s.interruptReturn).stepIdx = s.stepIdx := rfl
@[simp] theorem interruptReturn_tcount (s : State) : (s.interruptReturn).tcount = s.tcount := rfl
@[simp] theorem interruptReturn_trun (s : State) : (s.interruptReturn).trun = s.trun := rfl
@[simp] theorem interruptReturn_cc0 (s : State) : (s.interruptReturn).cc0 = s.cc0 := rfl
@[simp] theorem interruptReturn_cc1 (s : State) : (s.interruptReturn).cc1 = s.cc1 := rfl
@[simp] theorem interruptReturn_ev0 (s : State) : (s.interruptReturn).ev0 = s.ev0 := rfl
@[simp] theorem interruptReturn_ev1 (s : State) : (s.interruptReturn).ev1 = s.ev1 := rfl
@[simp] theorem interruptReturn_inten0 (s : State) : (s.interruptReturn).inten0 = s.inten0 := rfl
@[simp] theorem interruptReturn_inten1 (s : State) : (s.interruptReturn).inten1 = s.inten1 := rfl
@[simp] theorem interruptReturn_short1Clear (s : State) : (s.interruptReturn).short1Clear = s.short1Clear := rfl
@[simp] theorem interruptReturn_swpend (s : State) : (s.interruptReturn).swpend = s.swpend := rfl
@[simp] theorem interruptReturn_seqPhase (s : State) : (s.interruptReturn).seqPhase = .idle := rfl
@[simp] theorem interruptReturn_csDepth (s : State) : (s.interruptReturn).csDepth = s.csDepth := rfl
@[simp] theorem interruptReturn_btnA (s : State) : (s.interruptReturn).btnA = s.btnA := rfl
@[simp] theorem interruptReturn_btnB (s : State) : (s.interruptReturn).btnB = s.btnB := rfl
@[simp] theorem interruptReturn_samplerRun (s : State) : (s.interruptReturn).samplerRun = s.samplerRun := rfl
@[simp] theorem interruptReturn_handles (s : State) : (s.interruptReturn).handles = s.handles := rfl
@[simp] theorem interruptReturn_result (s : State) : (s.interruptReturn).result = s.result := rfl
@[simp] theorem interruptReturn_statusErr (s : State) : (s.interruptReturn).statusErr = s.statusErr := rfl
@[simp] theorem interruptReturn_fault (s : State) : (s.interruptReturn).fault = s.fault := rfl
@[simp] theorem interruptReturn_faultReason (s : State) : (s.interruptReturn).faultReason = s.faultReason := rfl
@[simp] theorem interruptReturn_readData (s : State) : (s.interruptReturn).readData = s.readData := rfl
@[simp] theorem interruptReturn_agenda (s : State) : (s.interruptReturn).agenda = s.agenda := rfl
@[simp] theorem interruptReturn_draws (s : State) : (s.interruptReturn).draws = s.draws := rfl

/-! ### The re-invocation (R279) -/

@[simp] theorem interruptReinvoke_params (s : State) : (s.interruptReinvoke).params = s.params := rfl
@[simp] theorem interruptReinvoke_stage (s : State) : (s.interruptReinvoke).stage = s.stage := rfl
@[simp] theorem interruptReinvoke_pending (s : State) : (s.interruptReinvoke).pending = s.pending := rfl
@[simp] theorem interruptReinvoke_active (s : State) : (s.interruptReinvoke).active = s.active := rfl
@[simp] theorem interruptReinvoke_dispInit (s : State) : (s.interruptReinvoke).dispInit = s.dispInit := rfl
@[simp] theorem interruptReinvoke_rowPin (s : State) : (s.interruptReinvoke).rowPin = s.rowPin := rfl
@[simp] theorem interruptReinvoke_colOn (s : State) : (s.interruptReinvoke).colOn = s.colOn := rfl
@[simp] theorem interruptReinvoke_curRow (s : State) : (s.interruptReinvoke).curRow = s.curRow := rfl
@[simp] theorem interruptReinvoke_stepIdx (s : State) : (s.interruptReinvoke).stepIdx = s.stepIdx := rfl
@[simp] theorem interruptReinvoke_tcount (s : State) : (s.interruptReinvoke).tcount = s.tcount := rfl
@[simp] theorem interruptReinvoke_trun (s : State) : (s.interruptReinvoke).trun = s.trun := rfl
@[simp] theorem interruptReinvoke_cc0 (s : State) : (s.interruptReinvoke).cc0 = s.cc0 := rfl
@[simp] theorem interruptReinvoke_cc1 (s : State) : (s.interruptReinvoke).cc1 = s.cc1 := rfl
@[simp] theorem interruptReinvoke_ev0 (s : State) : (s.interruptReinvoke).ev0 = s.ev0 := rfl
@[simp] theorem interruptReinvoke_ev1 (s : State) : (s.interruptReinvoke).ev1 = s.ev1 := rfl
@[simp] theorem interruptReinvoke_inten0 (s : State) : (s.interruptReinvoke).inten0 = s.inten0 := rfl
@[simp] theorem interruptReinvoke_inten1 (s : State) : (s.interruptReinvoke).inten1 = s.inten1 := rfl
@[simp] theorem interruptReinvoke_short1Clear (s : State) : (s.interruptReinvoke).short1Clear = s.short1Clear := rfl
@[simp] theorem interruptReinvoke_swpend (s : State) : (s.interruptReinvoke).swpend = s.swpend := rfl
@[simp] theorem interruptReinvoke_seqPhase (s : State) : (s.interruptReinvoke).seqPhase = .entry := rfl
@[simp] theorem interruptReinvoke_csDepth (s : State) : (s.interruptReinvoke).csDepth = s.csDepth := rfl
@[simp] theorem interruptReinvoke_btnA (s : State) : (s.interruptReinvoke).btnA = s.btnA := rfl
@[simp] theorem interruptReinvoke_btnB (s : State) : (s.interruptReinvoke).btnB = s.btnB := rfl
@[simp] theorem interruptReinvoke_samplerRun (s : State) : (s.interruptReinvoke).samplerRun = s.samplerRun := rfl
@[simp] theorem interruptReinvoke_handles (s : State) : (s.interruptReinvoke).handles = s.handles := rfl
@[simp] theorem interruptReinvoke_result (s : State) : (s.interruptReinvoke).result = s.result := rfl
@[simp] theorem interruptReinvoke_statusErr (s : State) : (s.interruptReinvoke).statusErr = s.statusErr := rfl
@[simp] theorem interruptReinvoke_fault (s : State) : (s.interruptReinvoke).fault = s.fault := rfl
@[simp] theorem interruptReinvoke_faultReason (s : State) : (s.interruptReinvoke).faultReason = s.faultReason := rfl
@[simp] theorem interruptReinvoke_readData (s : State) : (s.interruptReinvoke).readData = s.readData := rfl
@[simp] theorem interruptReinvoke_agenda (s : State) : (s.interruptReinvoke).agenda = s.agenda := rfl
@[simp] theorem interruptReinvoke_draws (s : State) : (s.interruptReinvoke).draws = s.draws := rfl

/-! ### A handle slot replaced (R57) -/

@[simp] theorem setHandle_params (s : State) (h : Fin 4) (x : Handle) : (s.setHandle h x).params = s.params := rfl
@[simp] theorem setHandle_stage (s : State) (h : Fin 4) (x : Handle) : (s.setHandle h x).stage = s.stage := rfl
@[simp] theorem setHandle_pending (s : State) (h : Fin 4) (x : Handle) : (s.setHandle h x).pending = s.pending := rfl
@[simp] theorem setHandle_active (s : State) (h : Fin 4) (x : Handle) : (s.setHandle h x).active = s.active := rfl
@[simp] theorem setHandle_dispInit (s : State) (h : Fin 4) (x : Handle) : (s.setHandle h x).dispInit = s.dispInit := rfl
@[simp] theorem setHandle_rowPin (s : State) (h : Fin 4) (x : Handle) : (s.setHandle h x).rowPin = s.rowPin := rfl
@[simp] theorem setHandle_colOn (s : State) (h : Fin 4) (x : Handle) : (s.setHandle h x).colOn = s.colOn := rfl
@[simp] theorem setHandle_curRow (s : State) (h : Fin 4) (x : Handle) : (s.setHandle h x).curRow = s.curRow := rfl
@[simp] theorem setHandle_stepIdx (s : State) (h : Fin 4) (x : Handle) : (s.setHandle h x).stepIdx = s.stepIdx := rfl
@[simp] theorem setHandle_tcount (s : State) (h : Fin 4) (x : Handle) : (s.setHandle h x).tcount = s.tcount := rfl
@[simp] theorem setHandle_trun (s : State) (h : Fin 4) (x : Handle) : (s.setHandle h x).trun = s.trun := rfl
@[simp] theorem setHandle_cc0 (s : State) (h : Fin 4) (x : Handle) : (s.setHandle h x).cc0 = s.cc0 := rfl
@[simp] theorem setHandle_cc1 (s : State) (h : Fin 4) (x : Handle) : (s.setHandle h x).cc1 = s.cc1 := rfl
@[simp] theorem setHandle_ev0 (s : State) (h : Fin 4) (x : Handle) : (s.setHandle h x).ev0 = s.ev0 := rfl
@[simp] theorem setHandle_ev1 (s : State) (h : Fin 4) (x : Handle) : (s.setHandle h x).ev1 = s.ev1 := rfl
@[simp] theorem setHandle_inten0 (s : State) (h : Fin 4) (x : Handle) : (s.setHandle h x).inten0 = s.inten0 := rfl
@[simp] theorem setHandle_inten1 (s : State) (h : Fin 4) (x : Handle) : (s.setHandle h x).inten1 = s.inten1 := rfl
@[simp] theorem setHandle_short1Clear (s : State) (h : Fin 4) (x : Handle) : (s.setHandle h x).short1Clear = s.short1Clear := rfl
@[simp] theorem setHandle_swpend (s : State) (h : Fin 4) (x : Handle) : (s.setHandle h x).swpend = s.swpend := rfl
@[simp] theorem setHandle_seqPhase (s : State) (h : Fin 4) (x : Handle) : (s.setHandle h x).seqPhase = s.seqPhase := rfl
@[simp] theorem setHandle_csDepth (s : State) (h : Fin 4) (x : Handle) : (s.setHandle h x).csDepth = s.csDepth := rfl
@[simp] theorem setHandle_btnA (s : State) (h : Fin 4) (x : Handle) : (s.setHandle h x).btnA = s.btnA := rfl
@[simp] theorem setHandle_btnB (s : State) (h : Fin 4) (x : Handle) : (s.setHandle h x).btnB = s.btnB := rfl
@[simp] theorem setHandle_samplerRun (s : State) (h : Fin 4) (x : Handle) : (s.setHandle h x).samplerRun = s.samplerRun := rfl
@[simp] theorem setHandle_handles (s : State) (h : Fin 4) (x : Handle) : (s.setHandle h x).handles = s.handles.set h x := rfl
@[simp] theorem setHandle_result (s : State) (h : Fin 4) (x : Handle) : (s.setHandle h x).result = s.result := rfl
@[simp] theorem setHandle_statusErr (s : State) (h : Fin 4) (x : Handle) : (s.setHandle h x).statusErr = s.statusErr := rfl
@[simp] theorem setHandle_fault (s : State) (h : Fin 4) (x : Handle) : (s.setHandle h x).fault = s.fault := rfl
@[simp] theorem setHandle_faultReason (s : State) (h : Fin 4) (x : Handle) : (s.setHandle h x).faultReason = s.faultReason := rfl
@[simp] theorem setHandle_readData (s : State) (h : Fin 4) (x : Handle) : (s.setHandle h x).readData = s.readData := rfl
@[simp] theorem setHandle_agenda (s : State) (h : Fin 4) (x : Handle) : (s.setHandle h x).agenda = s.agenda := rfl
@[simp] theorem setHandle_draws (s : State) (h : Fin 4) (x : Handle) : (s.setHandle h x).draws = s.draws := rfl

/-! ### A choice put back -/

@[simp] theorem putBack_params (s : State) (c : Choice) : (s.putBack c).params = s.params := rfl
@[simp] theorem putBack_stage (s : State) (c : Choice) : (s.putBack c).stage = s.stage := rfl
@[simp] theorem putBack_pending (s : State) (c : Choice) : (s.putBack c).pending = s.pending := rfl
@[simp] theorem putBack_active (s : State) (c : Choice) : (s.putBack c).active = s.active := rfl
@[simp] theorem putBack_dispInit (s : State) (c : Choice) : (s.putBack c).dispInit = s.dispInit := rfl
@[simp] theorem putBack_rowPin (s : State) (c : Choice) : (s.putBack c).rowPin = s.rowPin := rfl
@[simp] theorem putBack_colOn (s : State) (c : Choice) : (s.putBack c).colOn = s.colOn := rfl
@[simp] theorem putBack_curRow (s : State) (c : Choice) : (s.putBack c).curRow = s.curRow := rfl
@[simp] theorem putBack_stepIdx (s : State) (c : Choice) : (s.putBack c).stepIdx = s.stepIdx := rfl
@[simp] theorem putBack_tcount (s : State) (c : Choice) : (s.putBack c).tcount = s.tcount := rfl
@[simp] theorem putBack_trun (s : State) (c : Choice) : (s.putBack c).trun = s.trun := rfl
@[simp] theorem putBack_cc0 (s : State) (c : Choice) : (s.putBack c).cc0 = s.cc0 := rfl
@[simp] theorem putBack_cc1 (s : State) (c : Choice) : (s.putBack c).cc1 = s.cc1 := rfl
@[simp] theorem putBack_ev0 (s : State) (c : Choice) : (s.putBack c).ev0 = s.ev0 := rfl
@[simp] theorem putBack_ev1 (s : State) (c : Choice) : (s.putBack c).ev1 = s.ev1 := rfl
@[simp] theorem putBack_inten0 (s : State) (c : Choice) : (s.putBack c).inten0 = s.inten0 := rfl
@[simp] theorem putBack_inten1 (s : State) (c : Choice) : (s.putBack c).inten1 = s.inten1 := rfl
@[simp] theorem putBack_short1Clear (s : State) (c : Choice) : (s.putBack c).short1Clear = s.short1Clear := rfl
@[simp] theorem putBack_swpend (s : State) (c : Choice) : (s.putBack c).swpend = s.swpend := rfl
@[simp] theorem putBack_seqPhase (s : State) (c : Choice) : (s.putBack c).seqPhase = s.seqPhase := rfl
@[simp] theorem putBack_csDepth (s : State) (c : Choice) : (s.putBack c).csDepth = s.csDepth := rfl
@[simp] theorem putBack_btnA (s : State) (c : Choice) : (s.putBack c).btnA = s.btnA := rfl
@[simp] theorem putBack_btnB (s : State) (c : Choice) : (s.putBack c).btnB = s.btnB := rfl
@[simp] theorem putBack_samplerRun (s : State) (c : Choice) : (s.putBack c).samplerRun = s.samplerRun := rfl
@[simp] theorem putBack_handles (s : State) (c : Choice) : (s.putBack c).handles = s.handles := rfl
@[simp] theorem putBack_result (s : State) (c : Choice) : (s.putBack c).result = s.result := rfl
@[simp] theorem putBack_statusErr (s : State) (c : Choice) : (s.putBack c).statusErr = s.statusErr := rfl
@[simp] theorem putBack_fault (s : State) (c : Choice) : (s.putBack c).fault = s.fault := rfl
@[simp] theorem putBack_faultReason (s : State) (c : Choice) : (s.putBack c).faultReason = s.faultReason := rfl
@[simp] theorem putBack_readData (s : State) (c : Choice) : (s.putBack c).readData = s.readData := rfl
@[simp] theorem putBack_agenda (s : State) (c : Choice) : (s.putBack c).agenda = c :: s.agenda := rfl
@[simp] theorem putBack_draws (s : State) (c : Choice) : (s.putBack c).draws = s.draws := rfl

/-! ### The next choice taken -/

@[simp] theorem dropChoice_params (s : State) : s.dropChoice.params = s.params := by
  unfold dropChoice; split <;> rfl
@[simp] theorem dropChoice_stage (s : State) : s.dropChoice.stage = s.stage := by
  unfold dropChoice; split <;> rfl
@[simp] theorem dropChoice_pending (s : State) : s.dropChoice.pending = s.pending := by
  unfold dropChoice; split <;> rfl
@[simp] theorem dropChoice_active (s : State) : s.dropChoice.active = s.active := by
  unfold dropChoice; split <;> rfl
@[simp] theorem dropChoice_dispInit (s : State) : s.dropChoice.dispInit = s.dispInit := by
  unfold dropChoice; split <;> rfl
@[simp] theorem dropChoice_rowPin (s : State) : s.dropChoice.rowPin = s.rowPin := by
  unfold dropChoice; split <;> rfl
@[simp] theorem dropChoice_colOn (s : State) : s.dropChoice.colOn = s.colOn := by
  unfold dropChoice; split <;> rfl
@[simp] theorem dropChoice_curRow (s : State) : s.dropChoice.curRow = s.curRow := by
  unfold dropChoice; split <;> rfl
@[simp] theorem dropChoice_stepIdx (s : State) : s.dropChoice.stepIdx = s.stepIdx := by
  unfold dropChoice; split <;> rfl
@[simp] theorem dropChoice_tcount (s : State) : s.dropChoice.tcount = s.tcount := by
  unfold dropChoice; split <;> rfl
@[simp] theorem dropChoice_trun (s : State) : s.dropChoice.trun = s.trun := by
  unfold dropChoice; split <;> rfl
@[simp] theorem dropChoice_cc0 (s : State) : s.dropChoice.cc0 = s.cc0 := by
  unfold dropChoice; split <;> rfl
@[simp] theorem dropChoice_cc1 (s : State) : s.dropChoice.cc1 = s.cc1 := by
  unfold dropChoice; split <;> rfl
@[simp] theorem dropChoice_ev0 (s : State) : s.dropChoice.ev0 = s.ev0 := by
  unfold dropChoice; split <;> rfl
@[simp] theorem dropChoice_ev1 (s : State) : s.dropChoice.ev1 = s.ev1 := by
  unfold dropChoice; split <;> rfl
@[simp] theorem dropChoice_inten0 (s : State) : s.dropChoice.inten0 = s.inten0 := by
  unfold dropChoice; split <;> rfl
@[simp] theorem dropChoice_inten1 (s : State) : s.dropChoice.inten1 = s.inten1 := by
  unfold dropChoice; split <;> rfl
@[simp] theorem dropChoice_short1Clear (s : State) : s.dropChoice.short1Clear = s.short1Clear := by
  unfold dropChoice; split <;> rfl
@[simp] theorem dropChoice_swpend (s : State) : s.dropChoice.swpend = s.swpend := by
  unfold dropChoice; split <;> rfl
@[simp] theorem dropChoice_seqPhase (s : State) : s.dropChoice.seqPhase = s.seqPhase := by
  unfold dropChoice; split <;> rfl
@[simp] theorem dropChoice_csDepth (s : State) : s.dropChoice.csDepth = s.csDepth := by
  unfold dropChoice; split <;> rfl
@[simp] theorem dropChoice_btnA (s : State) : s.dropChoice.btnA = s.btnA := by
  unfold dropChoice; split <;> rfl
@[simp] theorem dropChoice_btnB (s : State) : s.dropChoice.btnB = s.btnB := by
  unfold dropChoice; split <;> rfl
@[simp] theorem dropChoice_samplerRun (s : State) : s.dropChoice.samplerRun = s.samplerRun := by
  unfold dropChoice; split <;> rfl
@[simp] theorem dropChoice_handles (s : State) : s.dropChoice.handles = s.handles := by
  unfold dropChoice; split <;> rfl
@[simp] theorem dropChoice_result (s : State) : s.dropChoice.result = s.result := by
  unfold dropChoice; split <;> rfl
@[simp] theorem dropChoice_statusErr (s : State) : s.dropChoice.statusErr = s.statusErr := by
  unfold dropChoice; split <;> rfl
@[simp] theorem dropChoice_fault (s : State) : s.dropChoice.fault = s.fault := by
  unfold dropChoice; split <;> rfl
@[simp] theorem dropChoice_faultReason (s : State) : s.dropChoice.faultReason = s.faultReason := by
  unfold dropChoice; split <;> rfl
@[simp] theorem dropChoice_readData (s : State) : s.dropChoice.readData = s.readData := by
  unfold dropChoice; split <;> rfl

/-- With a listed choice the agenda loses it. -/
theorem dropChoice_of_cons (s : State) (c : Choice) (rest : List Choice) (h : s.agenda = c :: rest) :
    s.dropChoice = { s with agenda := rest } := by
  unfold dropChoice; rw [h]

/-- With a listed choice the next choice is it. -/
theorem nextChoice_of_cons (s : State) (c : Choice) (rest : List Choice) (h : s.agenda = c :: rest) :
    s.nextChoice = c := by
  unfold nextChoice; rw [h]

/-- A choice put back is taken next, and taking it gives the state before. -/
@[simp] theorem nextChoice_putBack (s : State) (c : Choice) : (s.putBack c).nextChoice = c := rfl

@[simp] theorem dropChoice_putBack (s : State) (c : Choice) : (s.putBack c).dropChoice = s := rfl

/-! ### Buttons -/

@[simp] theorem button_a (s : State) : s.button .a = s.btnA := rfl

@[simp] theorem button_b (s : State) : s.button .b = s.btnB := rfl

@[simp] theorem setButton_a (s : State) (b : Button) : s.setButton .a b = { s with btnA := b } := rfl

@[simp] theorem setButton_b (s : State) (b : Button) : s.setButton .b b = { s with btnB := b } := rfl

end Sys2Proof.Machine.State
end

