-- ==== Sys2Proof/Laws/Contract.lean ====
section
/-! SUPPORT. The check of R61 clause by clause, and the two outcomes of settling a state. -/

namespace Sys2Proof.Machine

open Sys2Proof

/-- A row schedule in order (R34, R61 (d)). -/
theorem rowOk_iff (p : Params) (row : RowSchedule) : rowOk p row = true ↔
    (row.map Entry.col).Perm (List.range p.cols) ∧
      row.Pairwise (fun x y => x.time.toNat ≤ y.time.toNat) ∧ ∀ e ∈ row, e.time.toNat ≤ p.tpr := by
  simp [rowOk, and_assoc]

/-- A schedule in order (R34, R61 (d)). -/
theorem scheduleOk_iff (p : Params) (sched : Schedule) : scheduleOk p sched = true ↔
    sched.length = p.rows ∧ ∀ row ∈ sched, rowOk p row = true := by
  simp [scheduleOk]

/-- A row of a schedule in order is in order. -/
theorem rowOk_schedRow {p : Params} {sched : Schedule} (h : scheduleOk p sched = true) {r : Nat}
    (hr : r < p.rows) : rowOk p (schedRow sched r) = true := by
  obtain ⟨len, rows⟩ := (scheduleOk_iff p sched).mp h
  have : r < sched.length := by omega
  rw [schedRow, List.getD_eq_getElem _ _ this]
  exact rows _ (List.getElem_mem _)

/-- A row in order has one entry per column. -/
theorem length_of_rowOk {p : Params} {row : RowSchedule} (h : rowOk p row = true) :
    row.length = p.cols := by
  simpa using ((rowOk_iff p row).mp h).1.length_eq

/-- A row in order names each column once. -/
theorem nodup_of_rowOk {p : Params} {row : RowSchedule} (h : rowOk p row = true) :
    (row.map Entry.col).Nodup :=
  ((rowOk_iff p row).mp h).1.nodup_iff.mpr List.nodup_range

/-- A row in order names only columns. -/
theorem col_lt_of_rowOk {p : Params} {row : RowSchedule} (h : rowOk p row = true) {e : Entry}
    (he : e ∈ row) : e.col < p.cols := by
  have := ((rowOk_iff p row).mp h).1.mem_iff.mp (List.mem_map_of_mem he)
  simpa using this

/-- R61, clause by clause. -/
theorem State.contractHolds_iff (s : State) : s.contractHolds = true ↔
    (s.rowPin.length = s.params.rows ∧ s.colOn.length = s.params.cols) ∧
    (∀ r, s.rowPin.getD r false = true → s.curRow = some r) ∧
    s.stepIdx ≤ s.params.cols ∧
    (s.btnA.sigma ≤ 12 ∧ s.btnB.sigma ≤ 12) ∧
    (scheduleOk s.params s.active = true ∧ scheduleOk s.params s.pending = true) ∧
    (s.dispInit = true → s.tcount.toNat < s.params.tpf ∧ s.cc1.toNat = s.params.tpf) ∧
    (s.seqPhase ≠ .idle → s.dispInit = true) := by
  have pins : (∀ r < s.rowPin.length, s.rowPin.getD r false = true → s.curRow = some r) ↔
      ∀ r, s.rowPin.getD r false = true → s.curRow = some r := by
    refine ⟨fun h r on => h r ?_ on, fun h r _ => h r⟩
    by_contra out
    rw [List.getD_eq_default _ _ (by omega)] at on
    exact absurd on (by simp)
  have timer : s.timerOk = true ↔
      (s.dispInit = true → s.tcount.toNat < s.params.tpf ∧ s.cc1.toNat = s.params.tpf) := by
    unfold State.timerOk; cases s.dispInit <;> simp
  have phase : s.phaseOk = true ↔ (s.seqPhase ≠ .idle → s.dispInit = true) := by
    unfold State.phaseOk State.seqIdle; cases s.dispInit <;> cases s.seqPhase <;> simp
  have sigma : s.sigmaOk = true ↔ s.btnA.sigma ≤ 12 ∧ s.btnB.sigma ≤ 12 :=
    decide_eq_true_iff
  simp only [State.contractHolds, State.shapeOk, State.pinsOk, State.stepIdxOk, State.schedulesOk,
    Bool.and_eq_true, decide_eq_true_eq, pins, timer, phase, sigma, and_assoc]

/-- A state in order settles to itself. -/
theorem State.settle_of_contract {s : State} (h : s.contractHolds = true) : s.settle = s := by
  simp [State.settle, h]

/-- Settling leaves a state as it is or raises the fault of a broken invariant. -/
theorem State.settle_cases (s : State) :
    s.settle = s ∨ s.fault = false ∧ s.contractHolds = false ∧ s.settle = s.raiseFault .invariantBroken := by
  unfold State.settle
  cases hf : s.fault <;> cases hc : s.contractHolds <;> simp

end Sys2Proof.Machine
end

