-- ==== Sys2Proof/Laws/Decode.lean ====
section
/-! SUPPORT. What the fields of a packed word are, and what a decoding says: the one row a decoded word
spells. -/

namespace Sys2Proof

/-- The bits of a packed word, field by field. -/
theorem packFields_getLsbD (op : BitVec 4) (a b : Nibble) (imm8 : Byte) (i : Nat) :
    (packFields op a b imm8).getLsbD i =
      if i < 8 then imm8.getLsbD i else if i < 20 then false
      else if i < 24 then b.getLsbD (i - 20) else if i < 28 then a.getLsbD (i - 24)
      else op.getLsbD (i - 28) := by
  have h1 := @BitVec.getLsbD_append 24 8 i (op ++ a ++ b ++ (0 : BitVec 12)) imm8
  have h2 := @BitVec.getLsbD_append 12 12 (i - 8) (op ++ a ++ b) (0 : BitVec 12)
  have h3 := @BitVec.getLsbD_append 8 4 (i - 20) (op ++ a) b
  have h4 := @BitVec.getLsbD_append 4 4 (i - 24) op a
  rw [show (packFields op a b imm8).getLsbD i = _ from h1, h2, show i - 8 - 12 = i - 20 by omega, h3,
    show i - 20 - 4 = i - 24 by omega, h4, show i - 24 - 4 = i - 28 by omega]
  split_ifs <;> first | omega | simp

/-- The field `OP` of a packed word. -/
@[simp] theorem fieldOp_packFields (op : BitVec 4) (a b : Nibble) (imm8 : Byte) :
    fieldOp (packFields op a b imm8) = op := by
  apply BitVec.eq_of_getLsbD_eq
  intro i hi
  simp only [fieldOp, BitVec.getLsbD_extractLsb', packFields_getLsbD]
  interval_cases i <;> simp

/-- The field `A` of a packed word. -/
@[simp] theorem fieldA_packFields (op : BitVec 4) (a b : Nibble) (imm8 : Byte) :
    fieldA (packFields op a b imm8) = a := by
  apply BitVec.eq_of_getLsbD_eq
  intro i hi
  simp only [fieldA, BitVec.getLsbD_extractLsb', packFields_getLsbD]
  interval_cases i <;> simp

/-- The field `B` of a packed word. -/
@[simp] theorem fieldB_packFields (op : BitVec 4) (a b : Nibble) (imm8 : Byte) :
    fieldB (packFields op a b imm8) = b := by
  apply BitVec.eq_of_getLsbD_eq
  intro i hi
  simp only [fieldB, BitVec.getLsbD_extractLsb', packFields_getLsbD]
  interval_cases i <;> simp

/-- The field `IMM8` of a packed word. -/
@[simp] theorem fieldImm8_packFields (op : BitVec 4) (a b : Nibble) (imm8 : Byte) :
    fieldImm8 (packFields op a b imm8) = imm8 := by
  apply BitVec.eq_of_getLsbD_eq
  intro i hi
  simp only [fieldImm8, BitVec.getLsbD_extractLsb', packFields_getLsbD]
  interval_cases i <;> simp

/-- Masking a packed word masks its fields. -/
theorem packFields_and (op : BitVec 4) (a b : Nibble) (imm8 : Byte) (w : Word) :
    packFields op a b imm8 &&& w =
      packFields (op &&& fieldOp w) (a &&& fieldA w) (b &&& fieldB w) (imm8 &&& fieldImm8 w) := by
  apply BitVec.eq_of_getLsbD_eq
  intro i hi
  simp only [BitVec.getLsbD_and, packFields_getLsbD, fieldOp, fieldA, fieldB, fieldImm8,
    BitVec.getLsbD_extractLsb']
  interval_cases i <;> simp

/-- `spells` as the equation of R102. -/
theorem spells_iff (o : Opcode) (w : Word) : spells o w = true ↔ w &&& o.maskWord = o.matchWord := by
  simp [spells]

/-- A word that spells a row has the row's `OP`: every mask covers `OP` (R102). -/
theorem fieldOp_of_spells {o : Opcode} {w : Word} (h : spells o w = true) : fieldOp w = o.number := by
  have masked : fieldOp (w &&& o.maskWord) = fieldOp w := by
    apply BitVec.eq_of_getLsbD_eq
    intro i hi
    cases o <;> simp only [fieldOp, Opcode.maskWord] <;> interval_cases i <;> simp
  rw [← masked, (spells_iff o w).mp h]
  cases o <;> decide

/-- The rows differ in `OP` (R102). -/
theorem Opcode.number_injective {x y : Opcode} (h : x.number = y.number) : x = y := by
  cases x <;> cases y <;> first | rfl | exact absurd h (by decide)

/-- Every row is listed. -/
theorem Opcode.mem_all (o : Opcode) : o ∈ Opcode.all := by cases o <;> decide

/-- A word spells at most one row (R102). -/
theorem spells_unique {x y : Opcode} {w : Word} (hx : spells x w = true) (hy : spells y w = true) :
    x = y :=
  Opcode.number_injective ((fieldOp_of_spells hx).symm.trans (fieldOp_of_spells hy))

/-- The decoder finds the row a word spells. -/
theorem find_of_spells {o : Opcode} {w : Word} (h : spells o w = true) :
    (Opcode.all.find? fun x => spells x w) = some o := by
  cases found : Opcode.all.find? fun x => spells x w with
  | none => exact absurd h (by simpa using List.find?_eq_none.mp found o o.mem_all)
  | some x => rw [spells_unique (List.find?_some (p := fun x => spells x w) found) h]

/-- A word that spells a row decodes to that row's command. -/
theorem decode_of_spells {o : Opcode} {w : Word} (h : spells o w = true) :
    decode w = .command (assemble o w) := by
  simp [decode, find_of_spells h]

/-- A word that decodes to a command spells the row it is assembled by. -/
theorem spells_of_decode {w : Word} {i : Instr} (h : decode w = .command i) :
    ∃ o, spells o w = true ∧ i = assemble o w := by
  unfold decode at h
  split at h
  · rename_i o found
    exact ⟨o, List.find?_some (p := fun x => spells x w) found, by simpa using h.symm⟩
  · cases h

/-- A word that spells no row is illegal (R104). -/
theorem decode_of_spells_none {w : Word} (h : ∀ o, spells o w = false) :
    decode w = .illegal (illegalReason w) := by
  have none : (Opcode.all.find? fun x => spells x w) = none := by
    simp [h]
  simp [decode, none]

/-- The four bytes of a word make it again (R73). -/
theorem wordOfBytes_wordByte (w : Word) :
    wordOfBytes (wordByte w 0) (wordByte w 1) (wordByte w 2) (wordByte w 3) = w := by
  apply BitVec.eq_of_getLsbD_eq
  intro i hi
  have h1 := @BitVec.getLsbD_append 24 8 i (wordByte w 3 ++ wordByte w 2 ++ wordByte w 1) (wordByte w 0)
  have h2 := @BitVec.getLsbD_append 16 8 (i - 8) (wordByte w 3 ++ wordByte w 2) (wordByte w 1)
  have h3 := @BitVec.getLsbD_append 8 8 (i - 8 - 8) (wordByte w 3) (wordByte w 2)
  rw [show (wordOfBytes _ _ _ _).getLsbD i = _ from h1, h2, h3]
  simp only [wordByte, BitVec.getLsbD_extractLsb']
  interval_cases i <;> simp

/-- The decoder on the bytes of a word is the decoder on the word. -/
theorem decodeBytes_wordBytes (w : Word) : decodeBytes (wordBytes w) = decode w := by
  simp [decodeBytes, wordBytes, wordOfBytes_wordByte]

end Sys2Proof
end

