-- ==== Sys2Proof/Laws/Flags.lean ====
section
/-! SUPPORT. The bits of the register views: a word made of a list of bits (R78) and the `STATUS` word (R77). -/

namespace Sys2Proof.Machine

open Sys2Proof

/-- Bit `i` of the number a list of bits makes. -/
theorem bitsToNat_testBit (bs : List Bool) (i : Nat) : (bitsToNat bs).testBit i = bs.getD i false := by
  induction bs generalizing i with
  | nil => simp [bitsToNat]
  | cons b bs ih =>
    cases i with
    | zero => cases b <;> simp [bitsToNat, Nat.testBit_zero]
    | succ i =>
      have half : bitsToNat (b :: bs) / 2 = bitsToNat bs := by
        cases b <;> simp only [bitsToNat, Bool.toNat_true, Bool.toNat_false] <;> omega
      rw [Nat.testBit_succ, half, ih]; simp

/-- Bit `i` of a pin view of the first `n` pins (R78). -/
theorem bitsToWord_take_getLsbD (bs : List Bool) (n i : Nat) (hn : n ≤ 32) :
    (bitsToWord (bs.take n)).getLsbD i = (decide (i < n) && bs.getD i false) := by
  simp only [bitsToWord, BitVec.getLsbD_ofNat, bitsToNat_testBit]
  by_cases h : i < n
  · simp [List.getD_eq_getElem?_getD, h]; omega
  · simp [List.getD_eq_getElem?_getD, h]

/-- Bit `i` of the `STATUS` word (R77). -/
theorem statusWord_getLsbD (s : State) (i : Nat) : s.statusWord.getLsbD i =
    if i < 8 then s.statusErr.getLsbD i else if i = 8 then s.dispInit
    else if i = 9 then s.samplerRun else if i = 10 then s.fault else if i < 16 then false
    else if i < 24 then s.csDepth.getLsbD (i - 16) else false := by
  have h1 := @BitVec.getLsbD_append 24 8 i ((0 : BitVec 8) ++ s.csDepth ++ (0 : BitVec 5) ++
    BitVec.ofBool s.fault ++ BitVec.ofBool s.samplerRun ++ BitVec.ofBool s.dispInit) s.statusErr
  have h2 := @BitVec.getLsbD_append 23 1 (i - 8) ((0 : BitVec 8) ++ s.csDepth ++ (0 : BitVec 5) ++
    BitVec.ofBool s.fault ++ BitVec.ofBool s.samplerRun) (BitVec.ofBool s.dispInit)
  have h3 := @BitVec.getLsbD_append 22 1 (i - 8 - 1) ((0 : BitVec 8) ++ s.csDepth ++ (0 : BitVec 5) ++
    BitVec.ofBool s.fault) (BitVec.ofBool s.samplerRun)
  have h4 := @BitVec.getLsbD_append 21 1 (i - 8 - 1 - 1) ((0 : BitVec 8) ++ s.csDepth ++ (0 : BitVec 5))
    (BitVec.ofBool s.fault)
  have h5 := @BitVec.getLsbD_append 16 5 (i - 8 - 1 - 1 - 1) ((0 : BitVec 8) ++ s.csDepth) (0 : BitVec 5)
  have h6 := @BitVec.getLsbD_append 8 8 (i - 8 - 1 - 1 - 1 - 5) (0 : BitVec 8) s.csDepth
  refine Eq.trans h1 ?_
  rw [h2, h3, h4, h5, h6, show i - 8 - 1 - 1 - 1 - 5 = i - 16 by omega]
  simp only [BitVec.getLsbD_ofBool]
  split_ifs <;> first | omega | rfl | (simp; omega) | simp

end Sys2Proof.Machine
end

