-- ==== Sys2Proof/Laws/HostProgram.lean ====
section
/-! SUPPORT. The choices of a host program: what each line adds, and that nothing but the lines' accesses and
steps of other agents stands among them (R82, R260). -/

namespace Sys2Proof.Machine

open Sys2Proof

@[simp] theorem quietInterval_nil : quietInterval [] = [] := rfl

@[simp] theorem quietInterval_append (a b : List Choice) :
    quietInterval (a ++ b) = quietInterval a ++ quietInterval b := List.filter_append ..

/-- An interval of other agents' steps is quiet as it stands. -/
theorem quietInterval_eq_self {cs : List Choice} (h : ∀ c ∈ cs, besideHost c = true) : quietInterval cs = cs :=
  List.filter_eq_self.2 h

@[simp] theorem hostAccesses_append (a b : List Choice) :
    hostAccesses (a ++ b) = hostAccesses a ++ hostAccesses b := List.filterMap_append

/-- The HOST issues nothing in a quiet interval. -/
@[simp] theorem hostAccesses_quietInterval (cs : List Choice) : hostAccesses (quietInterval cs) = [] := by
  simp only [hostAccesses, quietInterval, List.filterMap_eq_nil_iff, List.mem_filter]
  rintro c ⟨-, h⟩
  cases c <;> simp_all [besideHost, hostOp?]

@[simp] theorem HostAct.choices_suspend (p : Params) (cs : List Choice) :
    HostAct.suspend.choices p cs = quietInterval cs := rfl

@[simp] theorem HostAct.choices_cmd (p : Params) (cs : List Choice) (i : Instr) :
    (HostAct.cmd i).choices p cs = quietInterval cs ++ [.host (.write p.blockBase 4 (encode i))] := rfl

@[simp] theorem HostAct.choices_rd (p : Params) (cs : List Choice) (r : WindowReg) :
    (HostAct.rd r).choices p cs = quietInterval cs ++ [.host (.read (p.blockBase + r.offset) 4)] := rfl

@[simp] theorem HostAct.choices_word (p : Params) (cs : List Choice) (w : Word) :
    (HostAct.word w).choices p cs = quietInterval cs ++ [.host (.write p.blockBase 4 w)] := rfl

/-- A choice of a line is a step of another agent from its interval, or the line's access. -/
theorem HostAct.mem_choices {p : Params} {cs : List Choice} {l : HostAct} {c : Choice} :
    c ∈ l.choices p cs ↔ (c ∈ cs ∧ besideHost c = true) ∨ ∃ op, l.op? p = some op ∧ c = .host op := by
  unfold HostAct.choices quietInterval
  split <;> simp_all

@[simp] theorem programAgenda_nil (p : Params) (intervals : List (List Choice)) :
    programAgenda p [] intervals = quietInterval (intervals.headD []) := rfl

@[simp] theorem programAgenda_cons (p : Params) (l : HostAct) (rest : List HostAct) (interval : List Choice)
    (intervals : List (List Choice)) :
    programAgenda p (l :: rest) (interval :: intervals) =
      l.choices p interval ++ programAgenda p rest intervals := rfl

@[simp] theorem programAgenda_cons_nil (p : Params) (l : HostAct) (rest : List HostAct) :
    programAgenda p (l :: rest) [] = l.choices p [] ++ programAgenda p rest [] := rfl

@[simp] theorem idealInterval_zero : idealInterval 0 = [] := rfl

theorem idealInterval_succ (n : Nat) : idealInterval (n + 1) =
    [.timer, .seq, .seq, .seq, .seq, .seq] ++ idealInterval n := rfl

/-- An interval of ideal ticks is quiet. -/
@[simp] theorem quietInterval_idealInterval (n : Nat) : quietInterval (idealInterval n) = idealInterval n := by
  induction n with
  | zero => rfl
  | succ n ih => rw [idealInterval_succ, quietInterval_append, ih]; rfl

@[simp] theorem State.offerProgram_agenda (s : State) (lines : List HostAct) (intervals : List (List Choice)) :
    (s.offerProgram lines intervals).agenda = programAgenda s.params lines intervals ++ s.agenda := rfl

end Sys2Proof.Machine
end

