-- ==== Sys2Proof/Laws/Image.lean ====
section
/-! SUPPORT. The image operations cell by cell, and the operand forms at and below their bounds. -/

namespace Sys2Proof.Machine

open Sys2Proof

/-! ### Images -/

/-- Images with the same cells are the same. -/
theorem image_ext {m m' : Image} (h : ∀ r c, imageGet m r c = imageGet m' r c) : m = m' := by
  apply Vector.ext
  intro r hr
  apply Vector.ext
  intro c hc
  exact h ⟨r, hr⟩ ⟨c, hc⟩

/-- A cell after one cell has been written: the new value there, every other cell as before (R132). -/
theorem imageGet_imageSet (m : Image) (r c : Fin 5) (b : Byte) (r' c' : Fin 5) :
    imageGet (imageSet m r c b) r' c' = if r' = r ∧ c' = c then b else imageGet m r' c' := by
  simp only [imageGet, imageSet, Fin.getElem_fin, Vector.getElem_set]
  by_cases h : r.val = r'.val
  · obtain rfl := Fin.ext h
    by_cases h2 : c.val = c'.val
    · obtain rfl := Fin.ext h2; simp
    · simp [h2, show ¬c' = c from fun e => h2 (by rw [e])]
  · simp [h, show ¬r' = r from fun e => h (by rw [e])]

/-- Every cell of the all-zero image (R33). -/
@[simp] theorem imageGet_zeroImage (r c : Fin 5) : imageGet zeroImage r c = 0 := by
  simp [imageGet, zeroImage]

/-- A cell after a shift (R134). -/
theorem imageGet_imageShiftLeft (m : Image) (n : Nat) (r c : Fin 5) :
    imageGet (imageShiftLeft m n) r c =
      if h : c.val + n < 5 then imageGet m r ⟨c.val + n, h⟩ else 0 := by
  simp [imageGet, imageShiftLeft]

/-! ### Operand forms -/

/-- A row or column operand below 5 names that index (R132). -/
theorem cellIndex_of_lt {x : Nibble} (h : x.toNat < 5) : cellIndex x = some ⟨x.toNat, h⟩ := by
  simp [cellIndex, h]

/-- A row or column operand from 5 on names none (R132). -/
theorem cellIndex_of_ge {x : Nibble} (h : 5 ≤ x.toNat) : cellIndex x = none := by
  simp [cellIndex, h]

/-- A handle operand below `NH` names that slot (R211). -/
theorem handleIndex_of_lt {x : Nibble} (h : x.toNat < 4) : handleIndex x = some ⟨x.toNat, h⟩ := by
  simp [handleIndex, h]

/-- A handle operand from `NH` on names none (R211). -/
theorem handleIndex_of_ge {x : Nibble} (h : 4 ≤ x.toNat) : handleIndex x = none := by
  simp [handleIndex, h]

/-- Which button an operand names (R211). -/
theorem buttonIndex_eq (x : Nibble) :
    buttonIndex x = if x.toNat = 0 then some .a else if x.toNat = 1 then some .b else none := by
  unfold buttonIndex
  split
  · rename_i h; simp [h]
  · rename_i h; simp [h]
  · rename_i h0 h1; simp [show ¬x.toNat = 0 from h0, show ¬x.toNat = 1 from h1]

end Sys2Proof.Machine
end

