-- ==== Sys2Proof/Laws/Params.lean ====
section
/-! SUPPORT. What a parameter set determines: sizes, tick constants, and what well-formedness gives. -/

namespace Sys2Proof

theorem Params.rows_pos (p : Params) : 0 < p.rows := by
  unfold Params.rows; split <;> decide

theorem Params.cols_pos (p : Params) : 0 < p.cols := by
  unfold Params.cols; split <;> decide

theorem Params.rows_le (p : Params) : p.rows ≤ 5 := by
  unfold Params.rows; split <;> decide

theorem Params.cols_le (p : Params) : p.cols ≤ 9 := by
  unfold Params.cols; split <;> decide

theorem Params.one_lt_rows (p : Params) : 1 < p.rows := by
  unfold Params.rows; split <;> decide

theorem Params.tpf_eq (p : Params) : p.tpf = p.tpr * p.rows := rfl

/-- Every logical cell is listed. -/
theorem mem_logicalCells (cell : Fin 5 × Fin 5) : cell ∈ logicalCells := by
  obtain ⟨r, c⟩ := cell
  simp [logicalCells]

/-- Well-formedness, clause by clause (R10). -/
theorem Params.wellFormed_iff (p : Params) : p.wellFormed = true ↔
    1 ≤ p.tpr ∧ p.tpf < 2 ^ 32 ∧ (logicalCells.map p.logicalToHw).Nodup ∧
      (∀ cell, (p.logicalToHw cell).1 < p.rows ∧ (p.logicalToHw cell).2 < p.cols) ∧
      1 ≤ p.rows ∧ 1 ≤ p.cols := by
  simp only [Params.wellFormed, Params.tprOk, Params.tpfOk, Params.mapInjective, Params.mapInRange,
    Params.sizeOk, Bool.and_eq_true, decide_eq_true_eq, List.all_eq_true, and_assoc]
  constructor
  · rintro ⟨a, b, c, d, e⟩
    exact ⟨a, b, c, fun cell => d cell (mem_logicalCells cell), e⟩
  · rintro ⟨a, b, c, d, e⟩
    exact ⟨a, b, c, fun cell _ => d cell, e⟩

theorem Params.tpr_pos {p : Params} (h : p.wellFormed = true) : 0 < p.tpr :=
  (p.wellFormed_iff.mp h).1

theorem Params.tpf_lt {p : Params} (h : p.wellFormed = true) : p.tpf < 2 ^ 32 :=
  (p.wellFormed_iff.mp h).2.1

theorem Params.tpf_pos {p : Params} (h : p.wellFormed = true) : 0 < p.tpf :=
  Nat.mul_pos (p.tpr_pos h) p.rows_pos

/-- A row's window ends within the frame. -/
theorem Params.row_end_le (p : Params) {r : Nat} (h : r < p.rows) : (r + 1) * p.tpr ≤ p.tpf := by
  rw [p.tpf_eq, Nat.mul_comm p.tpr]; exact Nat.mul_le_mul_right _ h

theorem Params.tpr_lt {p : Params} (h : p.wellFormed = true) : p.tpr < 2 ^ 32 := by
  have := p.row_end_le (r := 0) p.rows_pos
  have := p.tpf_lt h
  omega

/-- Distinct logical cells have distinct hardware cells (R10). -/
theorem Params.logicalToHw_injective {p : Params} (h : p.wellFormed = true) {x y : Fin 5 × Fin 5}
    (same : p.logicalToHw x = p.logicalToHw y) : x = y :=
  List.inj_on_of_nodup_map (p.wellFormed_iff.mp h).2.2.1 (mem_logicalCells x) (mem_logicalCells y) same

end Sys2Proof
end

