-- ==== Sys2Proof/Laws/Sequencer.lean ====
section
/-! SUPPORT. What the loops of a pass do: the pins after turning a list of columns on or off, the lighting loop
(R170) and the turn-off loop (R168) in closed form, on any row and on a sorted one. -/

namespace Sys2Proof.Machine

open Sys2Proof

/-- The pins after every column of `row` has been set to `v`, in order. -/
def setColumns (v : Bool) (row : RowSchedule) (cols : List Bool) : List Bool :=
  row.foldl (fun cs e => cs.set e.col v) cols

@[simp] theorem length_setColumns (v : Bool) (row : RowSchedule) (cols : List Bool) :
    (setColumns v row cols).length = cols.length := by
  induction row generalizing cols with
  | nil => rfl
  | cons e rest ih => simpa [setColumns] using ih (cols.set e.col v)

/-- A pin after `setColumns`: the new value where its column is in the row, else as before. -/
theorem getD_setColumns (v : Bool) (row : RowSchedule) (cols : List Bool) (c : Nat)
    (hc : c < cols.length) :
    (setColumns v row cols).getD c false =
      if c ∈ row.map Entry.col then v else cols.getD c false := by
  induction row generalizing cols with
  | nil => simp [setColumns]
  | cons e rest ih =>
    have step := ih (cols.set e.col v) (by simpa using hc)
    simp only [setColumns, List.foldl_cons] at step ⊢
    rw [step]
    by_cases hrest : c ∈ rest.map Entry.col
    · simp [hrest]
    · by_cases he : c = e.col
      · subst he; simp [hrest, List.getD_eq_getElem?_getD, hc]
      · simp [hrest, he, List.getD_eq_getElem?_getD, Ne.symm he]

/-- The lighting loop in closed form (R170). -/
theorem lightColumns_eq (row : RowSchedule) (cols : List Bool) (z : Nat) :
    lightColumns row cols z =
      (setColumns true (row.filter fun e => decide (e.time.toNat ≠ 0)) cols,
        z + row.countP fun e => decide (e.time.toNat = 0)) := by
  induction row generalizing cols z with
  | nil => simp [lightColumns, setColumns]
  | cons e rest ih =>
    by_cases h : e.time.toNat = 0
    · rw [lightColumns, if_pos h, ih, List.filter_cons_of_neg (by simp [h]),
        List.countP_cons_of_pos (by simp [h])]
      congr 1; omega
    · rw [lightColumns, if_neg h, ih, List.filter_cons_of_pos (by simp [h]),
        List.countP_cons_of_neg (by simp [h])]
      simp [setColumns]

/-- The turn-off loop in closed form (R168). -/
theorem turnOffDue_eq (now : Nat) (row : RowSchedule) (cols : List Bool) (i : Nat) :
    turnOffDue now row cols i =
      (setColumns false (row.takeWhile fun e => decide (e.time.toNat ≤ now)) cols,
        i + (row.takeWhile fun e => decide (e.time.toNat ≤ now)).length) := by
  induction row generalizing cols i with
  | nil => simp [turnOffDue, setColumns]
  | cons e rest ih =>
    by_cases h : e.time.toNat ≤ now
    · rw [turnOffDue, if_pos h, ih, List.takeWhile_cons_of_pos (by simp [h])]
      simp only [setColumns, List.foldl_cons, List.length_cons]
      congr 1; omega
    · rw [turnOffDue, if_neg h, List.takeWhile_cons_of_neg (by simp [h])]
      simp [setColumns]

/-- In a row sorted by time the due entries are exactly the first ones. -/
theorem length_takeWhile_of_sorted (now : Nat) (row : RowSchedule)
    (sorted : row.Pairwise fun x y => x.time.toNat ≤ y.time.toNat) :
    (row.takeWhile fun e => decide (e.time.toNat ≤ now)).length =
      row.countP fun e => decide (e.time.toNat ≤ now) := by
  induction row with
  | nil => rfl
  | cons e rest ih =>
    obtain ⟨first, sorted⟩ := List.pairwise_cons.mp sorted
    by_cases h : e.time.toNat ≤ now
    · simp [h, ih sorted]
    · rw [List.takeWhile_cons_of_neg (by simp [h]), List.countP_cons_of_neg (by simp [h])]
      symm
      rw [List.length_nil, List.countP_eq_zero]
      intro x hx
      have := first x hx
      simp; omega

/-- In a row sorted by time, entry `i` is due exactly when it is among the first that many. -/
theorem due_iff_lt_countP (now : Nat) (row : RowSchedule)
    (sorted : row.Pairwise fun x y => x.time.toNat ≤ y.time.toNat) (i : Nat) (hi : i < row.length) :
    row[i].time.toNat ≤ now ↔ i < row.countP fun e => decide (e.time.toNat ≤ now) := by
  rw [← length_takeWhile_of_sorted now row sorted]
  induction row generalizing i with
  | nil => simp at hi
  | cons e rest ih =>
    obtain ⟨first, sorted⟩ := List.pairwise_cons.mp sorted
    by_cases h : e.time.toNat ≤ now
    · cases i with
      | zero => simp [h]
      | succ i => simpa [h] using ih sorted i (by simpa using hi)
    · rw [List.takeWhile_cons_of_neg (by simp [h])]
      simp only [List.length_nil, Nat.not_lt_zero, iff_false]
      cases i with
      | zero => simpa using h
      | succ i =>
        have := first (rest[i]'(by simpa using hi)) (List.getElem_mem _)
        simp; omega

end Sys2Proof.Machine
end

