-- ==== Sys2Proof/Laws/Invariant.lean ====
section
/-! SUPPORT. What the invariant says, field by field, and what step 4 and the PROGRAM phase do in a state of it:
the turn-off loop in closed form (R168) and the deadline that is always there (R171). -/

namespace Sys2Proof.Machine

open Sys2Proof

/-! ### The invariant, field by field -/

/-- The pin arrays have one bit per row and per column (R37, R38). -/
theorem State.Inv.shape {s : State} (h : s.Inv) :
    s.rowPin.length = s.params.rows ∧ s.colOn.length = s.params.cols :=
  ((s.contractHolds_iff).mp h.contract).1

/-- R61 (a). -/
theorem State.Inv.loneRow {s : State} (h : s.Inv) : ∀ r, s.rowPin.getD r false = true → s.curRow = some r :=
  ((s.contractHolds_iff).mp h.contract).2.1

/-- R61 (b). -/
theorem State.Inv.stepIdx_le {s : State} (h : s.Inv) : s.stepIdx ≤ s.params.cols :=
  ((s.contractHolds_iff).mp h.contract).2.2.1

/-- R61 (c). -/
theorem State.Inv.sigma_le {s : State} (h : s.Inv) : s.btnA.sigma ≤ 12 ∧ s.btnB.sigma ≤ 12 :=
  ((s.contractHolds_iff).mp h.contract).2.2.2.1

/-- R61 (d). -/
theorem State.Inv.schedules {s : State} (h : s.Inv) :
    scheduleOk s.params s.active = true ∧ scheduleOk s.params s.pending = true :=
  ((s.contractHolds_iff).mp h.contract).2.2.2.2.1

/-- R61 (e). -/
theorem State.Inv.timer {s : State} (h : s.Inv) :
    s.dispInit = true → s.tcount.toNat < s.params.tpf ∧ s.cc1.toNat = s.params.tpf :=
  ((s.contractHolds_iff).mp h.contract).2.2.2.2.2.1

/-- R61 (f). -/
theorem State.Inv.phase {s : State} (h : s.Inv) : s.seqPhase ≠ .idle → s.dispInit = true :=
  ((s.contractHolds_iff).mp h.contract).2.2.2.2.2.2

/-- In a constructed display the derived row is a row (R169). -/
theorem State.Inv.derivedRow_lt {s : State} (h : s.Inv) (d : s.dispInit = true) :
    derivedRow s.params s.tcount.toNat < s.params.rows := by
  have below := (h.timer d).1
  rw [Params.tpf_eq, Nat.mul_comm] at below
  exact Nat.div_lt_of_lt_mul (by rw [Nat.mul_comm]; exact below)

/-- The row-local time is the remainder (R169). -/
theorem rowLocal_eq_mod (p : Params) (c : Nat) : rowLocal p c = c % p.tpr := by
  have split := Nat.div_add_mod c p.tpr
  rw [Nat.mul_comm] at split
  unfold rowLocal derivedRow
  omega

/-! ### The MAIN and PROGRAM phases -/

/-- The MAIN phase where it raises no fault (R168). -/
theorem mainPhase_of_lt {s : State} (h : derivedRow s.params s.tcount.toNat < s.params.rows) :
    mainPhase s = { stepFour (derivedRow s.params s.tcount.toNat) (rowLocal s.params s.tcount.toNat)
      (stepThree (derivedRow s.params s.tcount.toNat) s) with seqPhase := .program } := by
  unfold mainPhase
  rw [if_neg (by omega)]

/-- In a state of the invariant the PROGRAM phase has a deadline to write (R171). -/
theorem exists_nextDeadline {s : State} (h : s.Inv) {r : Nat} (hr : s.curRow = some r) :
    ∃ v, nextDeadline r s = some v := by
  have len := length_of_rowOk (rowOk_schedRow h.schedules.1 (h.rowLegal r hr))
  unfold nextDeadline
  split
  · rw [List.getElem?_eq_getElem (by omega)]; exact ⟨_, rfl⟩
  · exact ⟨_, rfl⟩

/-- The PROGRAM phase with its deadline (R171). -/
theorem programPhase_of_deadline {s : State} {r v : Nat} (hr : s.curRow = some r)
    (hv : nextDeadline r s = some v) :
    programPhase s = { s with cc0 := BitVec.ofNat 32 v, trun := true, seqPhase := .check } := by
  have found : (s.curRow.bind fun r => nextDeadline r s) = some v := by rw [hr]; exact hv
  unfold programPhase
  rw [found]

/-- In a row in order, the due entries from index `i` on are those below the count of all due entries. -/
theorem countP_drop_due (now : Nat) (row : RowSchedule)
    (sorted : row.Pairwise fun x y => x.time.toNat ≤ y.time.toNat) (i : Nat) :
    (row.drop i).countP (fun e => decide (e.time.toNat ≤ now)) =
      row.countP (fun e => decide (e.time.toNat ≤ now)) - i := by
  have whole : row.countP (fun e => decide (e.time.toNat ≤ now)) =
      (row.take i).countP (fun e => decide (e.time.toNat ≤ now)) +
        (row.drop i).countP (fun e => decide (e.time.toNat ≤ now)) := by
    rw [← List.countP_append, List.take_append_drop]
  have bound : row.countP (fun e => decide (e.time.toNat ≤ now)) ≤ row.length := List.countP_le_length
  by_cases hi : i ≤ row.countP fun e => decide (e.time.toNat ≤ now)
  · have all : (row.take i).countP (fun e => decide (e.time.toNat ≤ now)) = (row.take i).length := by
      rw [List.countP_eq_length]
      intro e he
      obtain ⟨j, hj, rfl⟩ := List.getElem_of_mem he
      rw [List.length_take] at hj
      rw [List.getElem_take]
      have := (due_iff_lt_countP now row sorted j (by omega)).mpr (by omega)
      simpa using this
    rw [List.length_take] at all
    omega
  · have none : (row.drop i).countP (fun e => decide (e.time.toNat ≤ now)) = 0 := by
      rw [List.countP_eq_zero]
      intro e he
      obtain ⟨j, hj, rfl⟩ := List.getElem_of_mem he
      rw [List.length_drop] at hj
      rw [List.getElem_drop]
      have := (due_iff_lt_countP now row sorted (i + j) (by omega)).not.mpr (by omega)
      simpa using this
    omega

/-- Step 4 on a row in order, in closed form: `STEP_IDX` rises to the count of due entries if it is below it,
and exactly the entries it passes are turned off (R168). -/
theorem stepFour_spec {s : State} {d : Nat} (hd : d < s.params.rows)
    (order : scheduleOk s.params s.active = true) (inRow : s.stepIdx ≤ s.params.cols)
    (shape : s.colOn.length = s.params.cols) (now : Nat) :
    (stepFour d now s).stepIdx =
        max s.stepIdx ((schedRow s.active d).countP fun e => decide (e.time.toNat ≤ now)) ∧
      ∀ j (hj : j < (schedRow s.active d).length),
        (stepFour d now s).colOn.getD (schedRow s.active d)[j].col false =
          if s.stepIdx ≤ j ∧ j < (schedRow s.active d).countP fun e => decide (e.time.toNat ≤ now)
          then false else s.colOn.getD (schedRow s.active d)[j].col false := by
  have rowOrder := rowOk_schedRow order hd
  have len := length_of_rowOk rowOrder
  have sorted := ((rowOk_iff _ _).mp rowOrder).2.1
  have nodup := nodup_of_rowOk rowOrder
  have cols : ∀ e ∈ schedRow s.active d, e.col < s.params.cols := fun e he => col_lt_of_rowOk rowOrder he
  have whole : (schedRow s.active d).take s.params.cols = schedRow s.active d :=
    List.take_of_length_le (by omega)
  have out : stepFour d now s = { s with
      colOn := (turnOffDue now ((schedRow s.active d).drop s.stepIdx) s.colOn s.stepIdx).1
      stepIdx := (turnOffDue now ((schedRow s.active d).drop s.stepIdx) s.colOn s.stepIdx).2 } := by
    unfold stepFour; rw [whole]
  rw [out]
  generalize schedRow s.active d = row at len sorted nodup cols
  have due := length_takeWhile_of_sorted now (row.drop s.stepIdx) (sorted.sublist (List.drop_sublist _ _))
  rw [countP_drop_due now row sorted] at due
  simp only [turnOffDue_eq]
  refine ⟨by omega, fun j hj => ?_⟩
  rw [getD_setColumns _ _ _ _ (by have := cols _ (List.getElem_mem hj); omega)]
  have passed : row[j].col ∈
      ((row.drop s.stepIdx).takeWhile fun e => decide (e.time.toNat ≤ now)).map Entry.col ↔
        s.stepIdx ≤ j ∧ j < row.countP fun e => decide (e.time.toNat ≤ now) := by
    have prefixed := List.takeWhile_prefix (fun e : Entry => decide (e.time.toNat ≤ now))
      (l := row.drop s.stepIdx)
    generalize (row.drop s.stepIdx).takeWhile (fun e => decide (e.time.toNat ≤ now)) = w at due prefixed
    have within := prefixed.length_le
    rw [List.length_drop] at within
    have entry : ∀ m (hm : m < w.length), w[m] = row[s.stepIdx + m]'(by omega) := by
      intro m hm
      rw [List.IsPrefix.getElem prefixed hm, List.getElem_drop]
    constructor
    · intro hm
      obtain ⟨e, he, same⟩ := List.mem_map.mp hm
      obtain ⟨m, hm, rfl⟩ := List.getElem_of_mem he
      rw [entry m hm] at same
      have index : s.stepIdx + m = j :=
        (List.Nodup.getElem_inj_iff nodup (i := s.stepIdx + m) (j := j)
          (hi := by rw [List.length_map]; omega) (hj := by rwa [List.length_map])).mp (by simpa using same)
      omega
    · rintro ⟨lo, hi⟩
      have hm : j - s.stepIdx < w.length := by omega
      refine List.mem_map.mpr ⟨w[j - s.stepIdx], List.getElem_mem _, ?_⟩
      rw [entry]
      congr 2
      omega
  simp only [passed]

end Sys2Proof.Machine
end

