-- ==== Sys2Proof/Laws/PerInstr.lean ====
section
/-! SUPPORT. The per-instruction family of LAWS.json: the word an instruction is encoded as fits the mask
and match of its row of the opcode table (R102, R103). -/

namespace Sys2Proof.Laws.EncodingMatchesTable

open Sys2Proof

/-- The encoding of an instruction matches the row it belongs to. -/
def Statement (i : Instr) : Prop := encode i &&& i.opcode.maskWord = i.opcode.matchWord

theorem nop : Statement .nop := by unfold Statement; decide

theorem dispNew : Statement .dispNew := by unfold Statement; decide

theorem showImage : Statement .showImage := by unfold Statement; decide

theorem imgClear : Statement .imgClear := by unfold Statement; decide

theorem imgWrite (row col : Nibble) (b : Byte) : Statement (.imgWrite row col b) := by
  unfold Statement
  simp only [encode, packFields_and, Instr.opcode, Opcode.maskWord, Opcode.matchWord, fieldOp, fieldA,
    fieldB, fieldImm8, BitVec.reduceExtractLsb', BitVec.reduceAnd, BitVec.ofNat_eq_ofNat, BitVec.and_zero]
  decide

theorem imgRead (row col : Nibble) : Statement (.imgRead row col) := by
  unfold Statement
  simp only [encode, packFields_and, Instr.opcode, Opcode.maskWord, Opcode.matchWord, fieldOp, fieldA,
    fieldB, fieldImm8, BitVec.reduceExtractLsb', BitVec.reduceAnd, BitVec.ofNat_eq_ofNat, BitVec.and_zero,
    BitVec.zero_and]
  decide

theorem imgShiftLeft (n : Byte) : Statement (.imgShiftLeft n) := by
  unfold Statement
  simp only [encode, packFields_and, Instr.opcode, Opcode.maskWord, Opcode.matchWord, fieldOp, fieldA,
    fieldB, fieldImm8, BitVec.reduceExtractLsb', BitVec.reduceAnd, BitVec.ofNat_eq_ofNat, BitVec.and_zero,
    BitVec.zero_and]
  decide

theorem btnNew (h k : Nibble) : Statement (.btnNew h k) := by
  unfold Statement
  simp only [encode, packFields_and, Instr.opcode, Opcode.maskWord, Opcode.matchWord, fieldOp, fieldA,
    fieldB, fieldImm8, BitVec.reduceExtractLsb', BitVec.reduceAnd, BitVec.ofNat_eq_ofNat, BitVec.and_zero,
    BitVec.zero_and]
  decide

theorem btnWasPressed (h : Nibble) : Statement (.btnWasPressed h) := by
  unfold Statement
  simp only [encode, packFields_and, Instr.opcode, Opcode.maskWord, Opcode.matchWord, fieldOp, fieldA,
    fieldB, fieldImm8, BitVec.reduceExtractLsb', BitVec.reduceAnd, BitVec.ofNat_eq_ofNat, BitVec.and_zero,
    BitVec.zero_and]
  decide

theorem btnIsPressed (h : Nibble) : Statement (.btnIsPressed h) := by
  unfold Statement
  simp only [encode, packFields_and, Instr.opcode, Opcode.maskWord, Opcode.matchWord, fieldOp, fieldA,
    fieldB, fieldImm8, BitVec.reduceExtractLsb', BitVec.reduceAnd, BitVec.ofNat_eq_ofNat, BitVec.and_zero,
    BitVec.zero_and]
  decide

theorem csEnter : Statement .csEnter := by unfold Statement; decide

theorem csExit : Statement .csExit := by unfold Statement; decide

end Sys2Proof.Laws.EncodingMatchesTable
end

