-- ==== Sys2Proof/Laws/Schedule.lean ====
section
/-! SUPPORT. The Render Schedule Builder: sorting keeps the entries and orders them, and every schedule the
block builds is in order (R61 (d)). -/

namespace Sys2Proof.Machine

open Sys2Proof

/-- Sorting a row permutes it. -/
theorem sortRow_perm (row : RowSchedule) : (sortRow row).Perm row :=
  List.perm_insertionSort _ row

/-- A sorted row ascends by time. -/
theorem sortRow_sorted (row : RowSchedule) :
    (sortRow row).Pairwise fun x y => x.time.toNat ≤ y.time.toNat := by
  unfold sortRow
  induction row with
  | nil => exact List.Pairwise.nil
  | cons e rest ih =>
    rw [List.insertionSort_cons]
    generalize List.insertionSort (fun x y : Entry => x.time.toNat ≤ y.time.toNat) rest = sorted at ih ⊢
    induction sorted with
    | nil => simp
    | cons x xs ih2 =>
      obtain ⟨first, others⟩ := List.pairwise_cons.mp ih
      by_cases h : e.time.toNat ≤ x.time.toNat
      · rw [List.orderedInsert_cons, if_pos h]
        refine List.pairwise_cons.mpr ⟨fun y hy => ?_, ih⟩
        rcases List.mem_cons.mp hy with rfl | hy
        · exact h
        · exact le_trans h (first y hy)
      · rw [List.orderedInsert_cons, if_neg h]
        refine List.pairwise_cons.mpr ⟨fun y hy => ?_, ih2 others⟩
        rcases (List.mem_orderedInsert (r := fun x y : Entry => x.time.toNat ≤ y.time.toNat)).mp hy
          with rfl | hy
        · omega
        · exact first y hy

/-- A row already ascending by time stays as it is. -/
theorem sortRow_of_sorted (row : RowSchedule)
    (h : row.Pairwise fun x y => x.time.toNat ≤ y.time.toNat) : sortRow row = row := by
  unfold sortRow
  induction row with
  | nil => rfl
  | cons e rest ih =>
    obtain ⟨first, others⟩ := List.pairwise_cons.mp h
    rw [List.insertionSort_cons, ih others]
    cases rest with
    | nil => rfl
    | cons x xs => exact List.orderedInsert_cons_of_le _ _ (first x (List.mem_cons_self ..))

/-- A time is within the row window (R135). -/
theorem timeOf_le (p : Params) (b : Byte) : timeOf p b ≤ p.tpr := by
  have := b.isLt
  exact Nat.div_le_of_le_mul (by nlinarith)

/-- An entry's time is `time_of` of its brightness, for a well-formed parameter set. -/
theorem toNat_timeOf {p : Params} (h : p.wellFormed = true) (b : Byte) :
    (BitVec.ofNat 32 (timeOf p b)).toNat = timeOf p b := by
  have := timeOf_le p b
  have := p.tpr_lt h
  simp; omega

/-- The columns of a row's entries, in column order. -/
@[simp] theorem cols_rowEntries (p : Params) (m : Image) (r : Nat) :
    (rowEntries p m r).map Entry.col = List.range p.cols := by
  simp [rowEntries, Function.comp_def]

/-- Every entry a row is built from is within the window. -/
theorem time_le_of_mem_rowEntries {p : Params} (h : p.wellFormed = true) {m : Image} {r : Nat} {e : Entry}
    (he : e ∈ rowEntries p m r) : e.time.toNat ≤ p.tpr := by
  obtain ⟨c, -, rfl⟩ := List.mem_map.mp he
  simpa [toNat_timeOf h] using timeOf_le p _

/-- The built row of a hardware row. -/
theorem schedRow_buildSchedule (p : Params) (m : Image) {r : Nat} (hr : r < p.rows) :
    schedRow (buildSchedule p m) r = sortRow (rowEntries p m r) := by
  rw [schedRow, buildSchedule, List.getD_eq_getElem _ _ (by simpa using hr)]
  simp

/-- A built schedule is in order (R61 (d)). -/
theorem scheduleOk_buildSchedule {p : Params} (h : p.wellFormed = true) (m : Image) :
    scheduleOk p (buildSchedule p m) = true := by
  refine (scheduleOk_iff p _).mpr ⟨by simp [buildSchedule], fun row hrow => ?_⟩
  obtain ⟨r, -, rfl⟩ := List.mem_map.mp hrow
  refine (rowOk_iff p _).mpr ⟨?_, sortRow_sorted _, fun e he => ?_⟩
  · simpa using (sortRow_perm (rowEntries p m r)).map Entry.col
  · exact time_le_of_mem_rowEntries h ((sortRow_perm _).mem_iff.mp he)

/-- `ZERO_SCHED` is in order. -/
theorem scheduleOk_zeroSched (p : Params) : scheduleOk p (zeroSched p) = true := by
  refine (scheduleOk_iff p _).mpr ⟨by simp [zeroSched], fun row hrow => ?_⟩
  rw [List.eq_of_mem_replicate hrow]
  refine (rowOk_iff p _).mpr ⟨by simp [Function.comp_def], ?_, by simp⟩
  rw [List.pairwise_map]
  exact List.pairwise_of_forall fun _ _ => by simp

end Sys2Proof.Machine
end

