-- ==== Sys2Proof/Laws/Step.lean ====
section
/-! SUPPORT. What a command, a HOST access and a step of the machine can do, each said once: if it answers a
next state, then one of the listed cases holds. -/

namespace Sys2Proof.Machine

open Sys2Proof

/-! ### The agent enables read the block only -/

@[simp] theorem State.irqLine_dropChoice (s : State) : s.dropChoice.irqLine = s.irqLine := by
  simp [State.irqLine]

@[simp] theorem State.take_dropChoice (s : State) : s.dropChoice.take = s.take := by
  simp [State.take, State.seqIdle, State.unmasked]

@[simp] theorem State.enabled_dropChoice (s : State) (a : Agent) :
    s.dropChoice.enabled a = s.enabled a := by
  cases a <;> simp [State.enabled, State.seqIdle, State.unmasked]

@[simp] theorem State.enabled_putBack (s : State) (c : Choice) (a : Agent) :
    (s.putBack c).enabled a = s.enabled a := by
  cases a <;> rfl

/-! ### Commands -/

/-- Everything a command can do. -/
theorem exec_cases {i : Instr} {s t : State} (h : exec i s = .next t) :
    (∃ e, e ≠ .none ∧ t = s.cmdError e) ∨
    (∃ answer, t = s.complete answer) ∨
    (∃ image, t = { s with stage := image }.complete 0) ∨
    (i = .showImage ∧ s.dispInit = true ∧
      t = { s with pending := buildSchedule s.params s.stage }.complete 0) ∨
    (i = .dispNew ∧ s.dispInit = false ∧ t = s.constructDisplay.complete 0) ∨
    (∃ slot x, t = { s.setHandle slot x with samplerRun := true }.complete 0) ∨
    (∃ slot x, t = (s.setHandle slot x).complete 1) ∨
    ((i = .csEnter ∨ i = .csExit) ∧ ∃ d, t = { s with csDepth := d }.complete 0) := by
  cases i with
  | nop => simp only [exec, execNop] at h; cases h; exact .inr (.inl ⟨0, rfl⟩)
  | dispNew =>
    simp only [exec, execDispNew] at h
    split at h
    · cases h; exact .inl ⟨_, by simp, rfl⟩
    · rename_i off
      cases h
      exact .inr (.inr (.inr (.inr (.inl ⟨rfl, by simpa using off, rfl⟩))))
  | showImage =>
    simp only [exec, execShow] at h
    split at h
    · rename_i on
      cases h
      exact .inr (.inr (.inr (.inl ⟨rfl, on, rfl⟩)))
    · cases h; exact .inl ⟨_, by simp, rfl⟩
  | imgClear => simp only [exec, execImgClear] at h; cases h; exact .inr (.inr (.inl ⟨_, rfl⟩))
  | imgWrite row col b =>
    simp only [exec, execImgWrite] at h
    split at h <;> cases h
    · exact .inr (.inr (.inl ⟨_, rfl⟩))
    · exact .inl ⟨_, by simp, rfl⟩
  | imgRead row col =>
    simp only [exec, execImgRead] at h
    split at h <;> cases h
    · exact .inr (.inl ⟨_, rfl⟩)
    · exact .inl ⟨_, by simp, rfl⟩
  | imgShiftLeft n =>
    simp only [exec, execImgShiftLeft] at h; cases h; exact .inr (.inr (.inl ⟨_, rfl⟩))
  | btnNew slot k =>
    simp only [exec, execBtnNew] at h
    split at h <;> cases h
    · exact .inr (.inr (.inr (.inr (.inr (.inl ⟨_, _, rfl⟩)))))
    · exact .inl ⟨_, by simp, rfl⟩
  | btnWasPressed slot =>
    simp only [exec, execBtnWasPressed] at h
    split at h
    · cases h; exact .inl ⟨_, by simp, rfl⟩
    · split at h
      · cases h; exact .inl ⟨_, by simp, rfl⟩
      · split at h <;> cases h
        · exact .inr (.inr (.inr (.inr (.inr (.inr (.inl ⟨_, _, rfl⟩))))))
        · exact .inr (.inl ⟨_, rfl⟩)
  | btnIsPressed slot =>
    simp only [exec, execBtnIsPressed] at h
    split at h
    · cases h; exact .inl ⟨_, by simp, rfl⟩
    · split at h <;> cases h
      · exact .inl ⟨_, by simp, rfl⟩
      · exact .inr (.inl ⟨_, rfl⟩)
  | csEnter =>
    simp only [exec, execCsEnter] at h
    split at h <;> cases h
    · exact .inr (.inr (.inr (.inr (.inr (.inr (.inr ⟨.inl rfl, _, rfl⟩))))))
    · exact .inl ⟨_, by simp, rfl⟩
  | csExit =>
    simp only [exec, execCsExit] at h
    split at h <;> cases h
    · exact .inr (.inr (.inr (.inr (.inr (.inr (.inr ⟨.inr rfl, _, rfl⟩))))))
    · exact .inl ⟨_, by simp, rfl⟩

/-! ### HOST accesses -/

/-- An admitted access is a word access inside the window (R72). -/
theorem accessOffset_ok {p : Params} {addr n offset : Nat} (h : accessOffset p addr n = .ok offset) :
    n = 4 ∧ p.blockBase ≤ addr ∧ addr < p.blockBase + 0x40 ∧ (addr - p.blockBase) % 4 = 0 ∧
      offset = addr - p.blockBase := by
  unfold accessOffset windowBytes at h
  split at h
  · cases h
  · split at h
    · cases h
    · split at h
      · cases h
      · cases h; omega

/-- Everything a HOST step can do. -/
theorem hostStep_cases {op : HostOp} {s t : State} (h : hostStep op s = .next t) :
    (∃ addr value, op = .read addr 4 ∧ t = { s with readData := some value }) ∨
    (∃ addr w, op = .write addr 4 w ∧
      (t = s ∨ t = s.cmdError .illegalCommand ∨ ∃ i, decode w = .command i ∧ exec i s = .next t)) := by
  cases op with
  | read addr n =>
    simp only [hostStep, hostRead] at h
    split at h
    · rename_i offset ok
      obtain ⟨rfl, -⟩ := accessOffset_ok ok
      cases h
      exact .inl ⟨_, _, rfl, rfl⟩
    · cases h
  | write addr n w =>
    simp only [hostStep, hostWrite] at h
    split at h
    · rename_i offset ok
      obtain ⟨rfl, -⟩ := accessOffset_ok ok
      refine .inr ⟨_, _, rfl, ?_⟩
      split at h
      · unfold executeWord at h
        split at h
        · rename_i i decoded
          exact .inr (.inr ⟨i, decoded, h⟩)
        · cases h; exact .inr (.inl rfl)
      · cases h; exact .inl rfl
    · cases h

/-! ### Steps -/

/-- An agent's step, before the check of R61: from `s`, whose next choice has been taken, to `u`. -/
inductive AgentStep (s u : State) : Prop where
  | timer (chosen : s.nextChoice = .timer) (on : s.enabled .timer = true) (taken : u = timerTick s.dropChoice)
  | seq (chosen : s.nextChoice = .seq) (on : s.enabled .seq = true) (taken : u = seqStep s.dropChoice)
  | seqFirst (chosen : s.nextChoice = .sampler ∨ ∃ op, s.nextChoice = .host op)
      (on : s.enabled .seq = true) (taken : u = seqStep (s.dropChoice.putBack s.nextChoice))
  | sampler (chosen : s.nextChoice = .sampler) (on : s.enabled .sampler = true)
      (taken : u = samplerStep s.dropChoice)
  | env (k : ButtonId) (v : Bool) (chosen : s.nextChoice = .env k v) (on : s.enabled .env = true)
      (taken : u = envStep k v s.dropChoice)
  | host (op : HostOp) (chosen : s.nextChoice = .host op) (on : s.enabled .host = true)
      (taken : hostStep op s.dropChoice = .next u)
  | pass (taken : u = s.dropChoice)

/-- Everything a step of the machine can do. -/
theorem step_cases {s t : State} (h : step s = .next t) :
    s.params.wellFormed = true ∧
    ((∃ rawA rawB, s.nextChoice = .reset rawA rawB ∧ t = (s.dropChoice.resetEvent rawA rawB).settle) ∨
      (s.nextChoice.agent ≠ none ∧ s.fault = false ∧ ∃ u, AgentStep s u ∧ t = u.settle)) := by
  unfold step runChoice at h
  simp only [State.dropChoice_params, State.dropChoice_fault] at h
  split at h
  · cases h
  · rename_i wf
    refine ⟨by simpa using wf, ?_⟩
    split at h
    · cases h
    · rename_i live
      cases c : s.nextChoice with
      | reset rawA rawB =>
        rw [c] at h; simp only [agentStep, settleOutcome] at h; cases h
        exact .inl ⟨_, _, rfl, rfl⟩
      | timer =>
        rw [c] at h live
        simp only [agentStep, settleOutcome, stepIfEnabled, State.enabled_dropChoice] at h
        refine .inr ⟨by simp [Choice.agent], by simpa [Choice.agent] using live, ?_⟩
        split at h <;> cases h
        · exact ⟨_, .timer c ‹_› rfl, rfl⟩
        · exact ⟨_, .pass rfl, rfl⟩
      | seq =>
        rw [c] at h live
        simp only [agentStep, settleOutcome, stepIfEnabled, State.enabled_dropChoice] at h
        refine .inr ⟨by simp [Choice.agent], by simpa [Choice.agent] using live, ?_⟩
        split at h <;> cases h
        · exact ⟨_, .seq c ‹_› rfl, rfl⟩
        · exact ⟨_, .pass rfl, rfl⟩
      | env k v =>
        rw [c] at h live
        simp only [agentStep, settleOutcome, stepIfEnabled, State.enabled_dropChoice] at h
        refine .inr ⟨by simp [Choice.agent], by simpa [Choice.agent] using live, ?_⟩
        split at h <;> cases h
        · exact ⟨_, .env k v c ‹_› rfl, rfl⟩
        · exact ⟨_, .pass rfl, rfl⟩
      | sampler =>
        rw [c] at h live
        simp only [agentStep, cooperativeStep, State.enabled_dropChoice] at h
        refine .inr ⟨by simp [Choice.agent], by simpa [Choice.agent] using live, ?_⟩
        split at h
        · simp only [settleOutcome] at h; cases h
          rw [← c]; exact ⟨_, .seqFirst (.inl c) ‹_› rfl, rfl⟩
        · split at h <;> (simp only [settleOutcome] at h; cases h)
          · exact ⟨_, .sampler c ‹_› rfl, rfl⟩
          · exact ⟨_, .pass rfl, rfl⟩
      | host op =>
        rw [c] at h live
        simp only [agentStep, cooperativeStep, State.enabled_dropChoice] at h
        refine .inr ⟨by simp [Choice.agent], by simpa [Choice.agent] using live, ?_⟩
        split at h
        · simp only [settleOutcome] at h; cases h
          rw [← c]; exact ⟨_, .seqFirst (.inr ⟨op, c⟩) ‹_› rfl, rfl⟩
        · split at h
          · cases stepped : hostStep op s.dropChoice with
            | next u =>
              rw [stepped] at h; simp only [settleOutcome] at h; cases h
              exact ⟨u, .host op c ‹_› stepped, rfl⟩
            | fault r => rw [stepped] at h; simp [settleOutcome] at h
            | refused r => rw [stepped] at h; simp [settleOutcome] at h
          · simp only [settleOutcome] at h; cases h
            exact ⟨_, .pass rfl, rfl⟩

/-! ### Runs -/

/-- A run goes on from the state a step gives. -/
theorem core_run_of_step {s t : State} (k : Nat) (h : step s = .next t) :
    Sys2Proof.core.run (k + 1) s = Sys2Proof.core.run k t := by
  have stepped : Sys2Proof.core.step s = .next t := h
  simp only [Host.Core.run, stepped]

/-- A run of two parts is the second part from where the first ends. -/
theorem core_run_add {a b : Nat} {s t : State} (h : Sys2Proof.core.run a s = .next t) :
    Sys2Proof.core.run (a + b) s = Sys2Proof.core.run b t := by
  induction a generalizing s with
  | zero => cases h; rw [Nat.zero_add]
  | succ a ih =>
    rw [Nat.add_right_comm]
    cases stepped : step s with
    | next u =>
      exact (core_run_of_step _ stepped).trans (ih ((core_run_of_step _ stepped).symm.trans h))
    | fault r =>
      have stops : Sys2Proof.core.step s = .fault r := stepped
      simp [Host.Core.run, stops] at h
    | refused r =>
      have stops : Sys2Proof.core.step s = .refused r := stepped
      simp [Host.Core.run, stops] at h

end Sys2Proof.Machine
end

