-- ==== Sys2Proof/Machine/Assembler.lean ====
section
/-! DEFINITION. The assembler syntax of host programs (R108, R109): a line of text to the accesses it stands
for. Grids (`IMG_LOAD M`, `SHOW_IMAGE M`) have no textual form in the spec and are not lines here (log entry 15). -/

namespace Sys2Proof.Machine

open Sys2Proof

/-- The value of a hexadecimal digit. -/
def digitValue (c : Char) : Option Nat :=
  if '0' ≤ c ∧ c ≤ '9' then some (c.toNat - 48)
  else if 'a' ≤ c ∧ c ≤ 'f' then some (c.toNat - 87)
  else if 'A' ≤ c ∧ c ≤ 'F' then some (c.toNat - 55)
  else none

/-- The digits of a numeral, most significant first, after those already read. -/
def readDigits (base : Nat) : List Char → Nat → Option Nat
  | [], read => some read
  | c :: rest, read =>
    match digitValue c with
    | some d => if d < base then readDigits base rest (base * read + d) else none
    | none => none

/-- A decimal or `0x` hexadecimal operand (R108). -/
def readNumber : List Char → Option Nat
  | [] => none
  | ['0', 'x'] => none
  | '0' :: 'x' :: digits => readDigits 16 digits 0
  | digits => readDigits 10 digits 0

/-- A button index: a number, `A` or `B` (R108). -/
def readButton : List Char → Option Nat
  | ['A'] => some 0
  | ['B'] => some 1
  | digits => readNumber digits

/-- The text with the blanks at both ends removed. -/
def trimBlanks (text : List Char) : List Char :=
  ((text.dropWhile (· == ' ')).reverse.dropWhile (· == ' ')).reverse

/-- The parts of a text between commas, blanks at their ends removed; `part` is read backwards. -/
def splitCommas : List Char → List Char → List (List Char)
  | [], part => [trimBlanks part.reverse]
  | c :: rest, part =>
    if c = ',' then trimBlanks part.reverse :: splitCommas rest [] else splitCommas rest (c :: part)

/-- A number as a field of `n` bits, where it fits. -/
def fieldOf (n : Nat) (x : Option Nat) : Option (BitVec n) :=
  match x with
  | some v => if v < 2 ^ n then some (BitVec.ofNat n v) else none
  | none => none

/-- A command from its row and its operands in the order A, B, IMM8 (R108). -/
def commandLine (o : Opcode) (operands : List (List Char)) : Option Instr :=
  match o, operands with
  | .nop, [] => some .nop
  | .dispNew, [] => some .dispNew
  | .showImage, [] => some .showImage
  | .imgClear, [] => some .imgClear
  | .imgWrite, [row, col, b] => do
    some (.imgWrite (← fieldOf 4 (readNumber row)) (← fieldOf 4 (readNumber col)) (← fieldOf 8 (readNumber b)))
  | .imgRead, [row, col] => do some (.imgRead (← fieldOf 4 (readNumber row)) (← fieldOf 4 (readNumber col)))
  | .imgShiftLeft, [n] => do some (.imgShiftLeft (← fieldOf 8 (readNumber n)))
  | .btnNew, [h, k] => do some (.btnNew (← fieldOf 4 (readNumber h)) (← fieldOf 4 (readButton k)))
  | .btnWasPressed, [h] => do some (.btnWasPressed (← fieldOf 4 (readNumber h)))
  | .btnIsPressed, [h] => do some (.btnIsPressed (← fieldOf 4 (readNumber h)))
  | .csEnter, [] => some .csEnter
  | .csExit, [] => some .csExit
  | _, _ => none

/-- The name of a register (R71). -/
def WindowReg.name : WindowReg → String
  | .cmd => "CMD"
  | .result => "RESULT"
  | .status => "STATUS"
  | .pressCountA => "PRESS_COUNT_A"
  | .pressCountB => "PRESS_COUNT_B"
  | .rowOut => "ROW_OUT"
  | .colOut => "COL_OUT"
  | .reserved => "reserved"

/-- The registers `RD` may name (R71, R108). -/
def namedRegs : List WindowReg := [.cmd, .result, .status, .pressCountA, .pressCountB, .rowOut, .colOut]

/-- `IMG_ROW r, b0, …, b4` (R109): one write per value, in column order. -/
def imgRowLine (row : Nibble) (values : List (List Char)) : Option (List HostAct) :=
  if values.length = 5 then
    ((List.range 5).zip values).mapM fun x => do
      some (HostAct.cmd (.imgWrite row (BitVec.ofNat 4 x.1) (← fieldOf 8 (readNumber x.2))))
  else none

/-- A line from its first word and its operands (R108, R109). -/
def assembleLine (word : String) (operands : List (List Char)) : Option (List HostAct) :=
  if word = "RD" then
    match operands with
    | [name] => (namedRegs.find? fun r => r.name == String.ofList name).map fun r => [.rd r]
    | _ => none
  else if word = ".word" then
    match operands with
    | [w] => (fieldOf 32 (readNumber w)).map fun w => [.word w]
    | _ => none
  else if word = "WAS_PRESSED" then
    match operands with
    | [h] => (fieldOf 4 (readNumber h)).map wasPressed
    | _ => none
  else if word = "IMG_ROW" then
    match operands with
    | row :: values => do imgRowLine (← fieldOf 4 (readNumber row)) values
    | [] => none
  else
    match Opcode.all.find? fun o => o.mnemonic == word with
    | some o => (commandLine o operands).map fun i => [.cmd i]
    | none => none

/-- What a line of a host program stands for; none where it is no line of the syntax. Text from `;` on is a
comment, and a blank line stands for nothing (R108). -/
def readLine (line : List Char) : Option (List HostAct) :=
  let text := trimBlanks (line.takeWhile (· != ';'))
  let rest := trimBlanks (text.dropWhile (· != ' '))
  if text = [] then some []
  else assembleLine (String.ofList (text.takeWhile (· != ' '))) (if rest = [] then [] else splitCommas rest [])

end Sys2Proof.Machine
end

