-- ==== Sys2Proof/Tests/Slice0.lean ====
section
/-! SUPPORT. The model's own tests. Expected values come from 95_test_vectors.md (named by vector) or are
computed by hand from the rule named. Then one witness for the hypotheses of every statement. -/

namespace Sys2Proof.Tests

open Sys2Proof Sys2Proof.Machine

/-! ### Helpers -/

/-- The next state of an outcome, if it has one. -/
def nextOf : Host.Outcome State Fault Refusal → Option State
  | .next s => some s
  | .fault _ => none
  | .refused _ => none

/-- The refusal of an outcome, if it is one. -/
def refusalOf : Host.Outcome State Fault Refusal → Option Refusal
  | .next _ => none
  | .fault _ => none
  | .refused r => some r

/-- An outcome with a next state is one. -/
theorem exists_next {o : Host.Outcome State Fault Refusal} (h : (nextOf o).isSome = true) :
    ∃ t, o = .next t := by
  cases o with
  | next t => exact ⟨t, rfl⟩
  | fault r => simp [nextOf] at h
  | refused r => simp [nextOf] at h

/-- The state a command leaves. -/
def after (i : Instr) (s : State) : State := (nextOf (exec i s)).getD s

/-- The state a command word written to `CMD` leaves. -/
def afterWord (w : Word) (s : State) : State := (nextOf (executeWord w s)).getD s

/-- An entry written as in 95_test_vectors.md. -/
def entry (p : Nat × Nat) : Entry := { time := BitVec.ofNat 32 p.1, col := p.2 }

/-- The row of vector L1.2. -/
def sampleRow : RowSchedule := [(0, 2), (836, 3), (1673, 1), (3333, 0), (3333, 4)].map entry

/-- The schedule of an image whose row 0 is that of L1.2. -/
def sampleSched : Schedule := sampleRow :: List.replicate 4 ((List.range 5).map fun c => entry (0, c))

/-- The image whose row 0 is that of L1.2. -/
def sampleImage : Image := zeroImage.set 0 #v[255, 128, 0, 64, 255]

/-- The state of program P1 at step 10. -/
def live : State := { State.reset with
  stage := sampleImage, pending := sampleSched, active := sampleSched, dispInit := true,
  rowPin := [true, false, false, false, false], colOn := [true, true, false, true, true],
  curRow := some 0, stepIdx := 1, trun := true, cc0 := 836, cc1 := 16665, inten0 := true, inten1 := true,
  short1Clear := true }

/-- That state at another phase and counter value. -/
def liveAt (phase : SeqPhase) (count : Nat) : State :=
  { live with seqPhase := phase, tcount := BitVec.ofNat 32 count }

/-- The parameters of the other revision, with the first 25 hardware cells as the map. -/
def params3x9 : Params :=
  { defaultParams with revision := .rev3x9, map3x9 := (List.range 25).map fun i => (i / 9, i % 9) }

/-- A check of every clause of the invariant. -/
def invOk (s : State) : Bool :=
  s.params.wellFormed && !s.fault && s.contractHolds && s.curRow.all (fun r => decide (r < s.params.rows)) &&
    (!s.dispInit || (s.short1Clear && s.inten0 && s.inten1)) &&
    (s.dispInit || !(s.inten0 || s.inten1 || s.swpend || s.trun)) &&
    (s.seqPhase != .program || s.curRow.isSome) &&
    (if s.btnA.latched then decide (2 ≤ s.btnA.sigma) else decide (s.btnA.sigma ≤ 8)) &&
    (if s.btnB.latched then decide (2 ≤ s.btnB.sigma) else decide (s.btnB.sigma ≤ 8)) &&
    decide (s.statusErr.toNat ≤ 6)

theorem inv_of_invOk {s : State} (h : invOk s = true) : s.Inv := by
  simp only [invOk, Bool.and_eq_true, decide_eq_true_eq] at h
  obtain ⟨⟨⟨⟨⟨⟨⟨⟨⟨wf, running⟩, contract⟩, row⟩, armed⟩, unarmed⟩, prog⟩, a⟩, b⟩, code⟩ := h
  refine ⟨wf, by simpa using running, contract, fun r hr => ?_, fun d => ?_, fun d => ?_, fun p => ?_, ?_, ?_, code⟩
  · rw [hr] at row; simpa using row
  · simpa [d, and_assoc] using armed
  · simpa [d, and_assoc] using unarmed
  · intro hn; rw [p, hn] at prog; exact absurd prog (by decide)
  · split at a <;> rename_i hl <;> simpa [hl] using a
  · split at b <;> rename_i hl <;> simpa [hl] using b

/-! ### Well-formedness: one ill-formed term for each check -/

/-- R10: `TPR` = 0 (a refresh rate above the timer frequency). -/
theorem test_tprOk_refuses : ({ defaultParams with refreshRate := 1000000 } : Params).tprOk = false := by decide

/-- R10: `TPF` = 2^32 or more. -/
theorem test_tpfOk_refuses : ({ defaultParams with timerFreq := 300000000000 } : Params).tpfOk = false := by
  decide

/-- R10: two logical cells mapped to one hardware cell. -/
theorem test_mapInjective_refuses :
    ({ params3x9 with map3x9 := (List.range 25).map fun i => (i / 10, i % 9) } : Params).mapInjective = false := by
  decide

/-- R10: a cell mapped to row 3 of three. -/
theorem test_mapInRange_refuses :
    ({ params3x9 with map3x9 := (List.range 25).map fun i => (i / 8, i % 8) } : Params).mapInRange = false := by
  decide

/-- R10, R2: both revisions have rows and columns, so this check refuses no parameter set. -/
theorem test_sizeOk_holds : defaultParams.sizeOk = true ∧ params3x9.sizeOk = true := by decide

/-- A parameter set that fails one check is not well-formed. -/
theorem test_wellFormed_refuses :
    ({ defaultParams with refreshRate := 1000000 } : Params).wellFormed = false ∧
      ({ params3x9 with map3x9 := [] } : Params).wellFormed = false := by decide

/-- R132: row 5; R133: column 5. -/
theorem test_cellOperands_refused :
    (Instr.imgWrite 5 0 1).wellFormed = false ∧ (Instr.imgRead 0 5).wellFormed = false := by decide

/-- R211 to R213: handle 4. -/
theorem test_handleOperands_refused : (Instr.btnNew 4 0).wellFormed = false ∧
    (Instr.btnWasPressed 4).wellFormed = false ∧ (Instr.btnIsPressed 15).wellFormed = false := by decide

/-- R211: button 2. -/
theorem test_buttonOperand_refused : (Instr.btnNew 2 2).wellFormed = false := by decide

/-- The last operand of every range is well-formed. -/
theorem test_operands_accepted : (Instr.imgWrite 4 4 255).wellFormed = true ∧
    (Instr.btnNew 3 1).wellFormed = true := by decide

/-! ### Decoding: a word of every row, written out from R100 and R103, and the illegal words of L2.D -/

theorem test_decode_nop : decode 0x00000000#32 = .command .nop := by decide

theorem test_decode_dispNew : decode 0x10000000#32 = .command .dispNew := by decide

theorem test_decode_showImage : decode 0x20000000#32 = .command .showImage := by decide

theorem test_decode_imgClear : decode 0x30000000#32 = .command .imgClear := by decide

/-- L2.D8: `OP` 4, `A` 2, `B` 3, `IMM8` 0x80. -/
theorem test_decode_imgWrite : decode 0b01000010001100000000000010000000#32 = .command (.imgWrite 2 3 128) := by
  decide

/-- L2.D12: `OP` 5, `A` 2, `B` 3. -/
theorem test_decode_imgRead : decode 0b01010010001100000000000000000000#32 = .command (.imgRead 2 3) := by decide

/-- L2.D14: `OP` 6, `IMM8` 5. -/
theorem test_decode_imgShiftLeft : decode 0b01100000000000000000000000000101#32 = .command (.imgShiftLeft 5) := by
  decide

/-- L2.D17: `OP` 7, `A` 0, `B` 1. -/
theorem test_decode_btnNew : decode 0b01110000000100000000000000000000#32 = .command (.btnNew 0 1) := by decide

/-- L2.D24: `OP` 8, `A` 15. -/
theorem test_decode_btnWasPressed : decode 0b10001111000000000000000000000000#32 = .command (.btnWasPressed 15) := by
  decide

/-- L2.D25: `OP` 9, `A` 2. -/
theorem test_decode_btnIsPressed : decode 0b10010010000000000000000000000000#32 = .command (.btnIsPressed 2) := by
  decide

theorem test_decode_csEnter : decode 0xA0000000#32 = .command .csEnter := by decide

theorem test_decode_csExit : decode 0xB0000000#32 = .command .csExit := by decide

/-- L2.D2, D5, D11, D13, D16, D21, D23, D27, D33: a set bit outside the used fields. -/
theorem test_decode_unused_fields_illegal :
    [0x00000001#32, 0x10000001, 0x42300180, 0x52300001, 0x61000001, 0x70000001, 0x80100000, 0xA0000001,
      0x4F3001FF].all (fun w => (decode w).instr?.isNone) = true := by decide

/-- L2.D29 to D32: the reserved values of `OP`. -/
theorem test_decode_reserved_illegal :
    [0xC0000000#32, 0xD0000000, 0xE0000000, 0xFFFFFFFF].all
      (fun w => decode w == .illegal .reservedOpcode) = true := by decide

/-- R73: the first byte is the least significant; R107: three bytes are no command. -/
theorem test_decodeBytes_order : decodeBytes [0x80, 0x00, 0x30, 0x42] = .command (.imgWrite 2 3 128) ∧
    decodeBytes [0x80, 0x00, 0x30] = .illegal .truncated := by decide

/-- The host's view of a table row. -/
theorem test_decodeTableWord : decodeTableWord 32 0x42300080 = some (.imgWrite 2 3 128) ∧
    decodeTableWord 32 0x61000001 = none := by decide

/-- R108: the text of a line. -/
theorem test_text : Machine.Instr.text (.imgWrite 2 3 128) = "IMG_WRITE 2, 3, 128" := by decide

/-- R108: a command line with a button letter and a comment. -/
theorem test_readLine_command : readLine "BTN_NEW 2, B ; bind".toList = some [.cmd (.btnNew 2 1)] := by decide

/-- R108, R109: a hexadecimal operand, a register name, a pseudo-command, and a line that is none. -/
theorem test_readLine_others :
    readLine ".word 0x61000001".toList = some [.word 0x61000001] ∧
      readLine "RD STATUS".toList = some [.rd .status] ∧
      readLine "WAS_PRESSED 3".toList = some [.cmd (.btnWasPressed 3), .rd .result] ∧
      readLine "IMG_WRITE 2, 3".toList = none := by decide

/-! ### Parameters, times and schedules -/

/-- R9, L2.T3: the tick constants of both revisions. -/
theorem test_tick_constants : defaultParams.tpr = 3333 ∧ defaultParams.tpf = 16665 ∧ params3x9.tpr = 5555 ∧
    params3x9.tpf = 16665 := by decide

/-- L2.T1. -/
theorem test_timeOf : [0, 1, 2, 19, 20, 64, 127, 128, 129, 191, 192, 254, 255].map (timeOf defaultParams) =
    [0, 13, 26, 248, 261, 836, 1659, 1673, 1686, 2496, 2509, 3319, 3333] := by decide

/-- L2.S2 and the zero rows of L2.S1. -/
theorem test_buildSchedule : buildSchedule defaultParams sampleImage = sampleSched := by decide

/-- L2.S6. -/
theorem test_sortRow : sortRow ([(13, 0), (26, 1), (261, 2), (248, 3), (3319, 4)].map entry) =
    [(13, 0), (26, 1), (248, 3), (261, 2), (3319, 4)].map entry := by decide

/-- R136: a hardware cell no logical cell maps to is dark; one that is mapped has its brightness. -/
theorem test_hwCell_3x9 : hwCell params3x9 sampleImage 2 8 = 0 ∧ hwCell params3x9 sampleImage 0 4 = 255 := by
  decide

/-! ### Commands: at most two each -/

/-- L2.C1. -/
theorem test_nop : (after .nop { State.reset with statusErr := 3, result := 7 }).statusErr = 0 ∧
    (after .nop { State.reset with statusErr := 3, result := 7 }).result = 0 := by decide

/-- L2.D3 and L2.Q1: `STATUS` and the request for the first pass. -/
theorem test_dispNew : (after .dispNew State.reset).statusWord = 0x00000100 ∧
    (after .dispNew State.reset).irqLine = true ∧ (after .dispNew State.reset).cc1 = 16665 := by decide

/-- L2.D4. -/
theorem test_dispNew_twice : (after .dispNew (after .dispNew State.reset)).statusErr = 1 := by decide

/-- P1 step 4: SHOW writes `PENDING` and not `ACTIVE`. -/
theorem test_show : (after .showImage { live with pending := zeroSched defaultParams }).pending = sampleSched ∧
    (after .showImage { live with active := zeroSched defaultParams }).active = zeroSched defaultParams := by
  decide

/-- L2.D6. -/
theorem test_show_uninitialised : (after .showImage State.reset).statusErr = 5 := by decide

/-- L2.I3. -/
theorem test_imgClear : (after .imgClear (after (.imgWrite 4 4 255) State.reset)).stage = zeroImage := by decide

/-- L2.D8: one cell, and its neighbours stay. -/
theorem test_imgWrite : imageGet (after (.imgWrite 2 3 128) State.reset).stage 2 3 = 128 ∧
    imageGet (after (.imgWrite 2 3 128) State.reset).stage 3 2 = 0 := by decide

/-- L2.I7: row 5 changes no cell. -/
theorem test_imgWrite_range : (after (.imgWrite 5 0 1) live).statusErr = 4 ∧
    (after (.imgWrite 5 0 1) live).stage = sampleImage := by decide

/-- L2.I2, and row and column in that order. -/
theorem test_imgRead : (after (.imgRead 2 3) (after (.imgWrite 2 3 128) State.reset)).result = 128 ∧
    (after (.imgRead 3 2) (after (.imgWrite 2 3 128) State.reset)).result = 0 := by decide

/-- L2.D10 on the read: column 15. -/
theorem test_imgRead_range : (after (.imgRead 2 15) live).statusErr = 4 := by decide

/-- L1.3 with n = 2 and n = 4. -/
theorem test_imgShiftLeft :
    (imageShiftLeft (zeroImage.set 2 #v[1, 2, 3, 4, 5]) 2)[2] = #v[3, 4, 5, 0, 0] ∧
      (imageShiftLeft (zeroImage.set 2 #v[1, 2, 3, 4, 5]) 4)[2] = #v[5, 0, 0, 0, 0] := by decide

/-- L1.3 with n = 0 and n = 5, and L2.I6. -/
theorem test_imgShiftLeft_ends : (after (.imgShiftLeft 0) live).stage = sampleImage ∧
    (after (.imgShiftLeft 5) live).stage = zeroImage ∧ (after (.imgShiftLeft 255) live).stage = zeroImage := by
  decide

/-- L2.B10: the current count is taken over. -/
theorem test_btnNew :
    (after (.btnNew 2 1) { State.reset with btnB := { resetButton false with pressCount := 6 } }).handles[2] =
      { valid := true, btn := .b, last := 6 } ∧
    (after (.btnNew 3 1) State.reset).statusWord = 0x00000200 := by decide

/-- L2.D19 and L2.D20. -/
theorem test_btnNew_range : (after (.btnNew 4 0) State.reset).statusErr = 4 ∧
    (after (.btnNew 2 2) State.reset).statusErr = 4 ∧ (after (.btnNew 4 0) State.reset).samplerRun = false := by
  decide

/-- A reset state whose handle 3 is bound to button A at a last-seen count. -/
def bound (last count : Word) : State :=
  { State.reset with
    handles := State.reset.handles.set 3 { valid := true, btn := .a, last := last },
    btnA := { resetButton false with pressCount := count } }

/-- L1.6, and L2.B11 across the counter's wrap. -/
theorem test_btnWasPressed : (after (.btnWasPressed 3) (bound 1 3)).result = 1 ∧
    (after (.btnWasPressed 3) (bound 1 3)).handles[3].last = 3 ∧
    (after (.btnWasPressed 3) (after (.btnWasPressed 3) (bound 1 3))).result = 0 ∧
    (after (.btnWasPressed 3) (bound 4294967295 0)).result = 1 := by decide

/-- L2.D22 and L2.D24: the range is checked before validity. -/
theorem test_btnWasPressed_errors : (after (.btnWasPressed 0) State.reset).statusErr = 5 ∧
    (after (.btnWasPressed 15) State.reset).statusErr = 4 := by decide

/-- L2.B13: the raw input, whatever is latched. -/
theorem test_btnIsPressed :
    (after (.btnIsPressed 3) { bound 0 0 with btnA := { resetButton true with latched := false } }).result = 1 ∧
    (after (.btnIsPressed 3)
      { bound 0 0 with btnA := { resetButton false with sigma := 9, latched := true } }).result = 0 := by decide

/-- L2.D25. -/
theorem test_btnIsPressed_errors : (after (.btnIsPressed 2) State.reset).statusErr = 5 ∧
    (after (.btnIsPressed 4) State.reset).statusErr = 4 := by decide

/-- L2.C2: `CS_ENTER` twice. -/
theorem test_csEnter : (after .csEnter (after .csEnter State.reset)).statusWord = 0x00020000 := by decide

/-- L2.C3. -/
theorem test_csEnter_full : (after .csEnter { State.reset with csDepth := 255 }).statusErr = 6 ∧
    (after .csEnter { State.reset with csDepth := 255 }).csDepth = 255 := by decide

/-- L2.C2: leaving depth 1, then depth 0. -/
theorem test_csExit : (after .csExit { State.reset with csDepth := 1 }).statusWord = 0 ∧
    (after .csExit State.reset).statusWord = 6 := by decide

/-- L2.C4: leaving the outermost section with an event pending enables the take. -/
theorem test_csExit_takes : (after .csExit { live with csDepth := 1, ev0 := true }).take = true ∧
    (after .csExit { live with csDepth := 1, ev0 := true }).enabled .host = false := by decide

/-- L2.D2 and L2.D33: an illegal word. -/
theorem test_illegal_word : (afterWord 0x00000001 State.reset).statusErr = 3 ∧
    (afterWord 0x4F3001FF live).statusErr = 3 := by decide

/-! ### The register window -/

/-- L2.R1 and L2.R2. -/
theorem test_status_bytes :
    ([0x08, 0x09, 0x0A, 0x0B].map
      (windowByte (after .csEnter (after .csEnter (after (.btnNew 0 0) (after .dispNew State.reset)))))) =
      [0x00, 0x03, 0x02, 0x00] := by decide

/-- L2.R5 in the state of L2.Q5. -/
theorem test_pin_views : live.rowOut = 0x1 ∧ live.colOut = 0x1B := by decide

/-- L2.R3, L2.R4 and an access outside the window. -/
theorem test_accesses : (nextOf (hostStep (.read 0x20 4) live)).map State.readData = some (some 0) ∧
    nextOf (hostStep (.write 0x08 4 0xFFFFFFFF) live) = some live ∧
    refusalOf (hostStep (.read 0x02 4) live) = some .accessMisaligned ∧
    refusalOf (hostStep (.read 0x02 2) live) = some .accessWidth ∧
    refusalOf (hostStep (.write 0x40 4 0) live) = some .accessOutsideWindow := by decide

/-! ### Timer, sequencer, sampler -/

/-- L2.K1. -/
theorem test_tick_wrap : (timerTick { liveAt .idle 16664 with cc0 := 16665 }).tcount = 0 ∧
    (timerTick { liveAt .idle 16664 with cc0 := 16665 }).ev0 = true ∧
    (timerTick { liveAt .idle 16664 with cc0 := 16665 }).ev1 = true := by decide

/-- L2.K4: a deadline already passed raises no event. -/
theorem test_tick_late : (timerTick (liveAt .idle 836)).tcount = 837 ∧
    (timerTick (liveAt .idle 836)).ev0 = false := by decide

/-- L2.Q5: the row-0 transition swaps the schedules and moves the row pin. -/
theorem test_main_swap :
    (seqStep { liveAt .main 0 with
      curRow := some 4, rowPin := [false, false, false, false, true], stepIdx := 5,
      colOn := List.replicate 5 false, active := zeroSched defaultParams }) =
      liveAt .program 0 := by decide

/-- L2.Q6: two entries are due. -/
theorem test_main_due : (seqStep (liveAt .main 1700)).stepIdx = 3 ∧ (seqStep (liveAt .main 1700)).colOut = 0x11 ∧
    (seqStep (seqStep (liveAt .main 1700))).cc0 = 3333 := by decide

/-- L2.Q8: a skipped row. -/
theorem test_main_skip : (seqStep (liveAt .main 7000)).rowOut = 0x4 := by decide

/-- L2.Q10 and L2.Q11: the re-check, without and with a pending event. -/
theorem test_check : (seqStep (liveAt .check 840)).seqPhase = .entry ∧
    (seqStep { liveAt .check 840 with ev0 := true }).seqPhase = .idle ∧
    (seqStep (liveAt .check 835)).seqPhase = .idle := by decide

/-- L2.Q15. -/
theorem test_fault : (seqStep (liveAt .main 16665)).fault = true ∧ (seqStep (liveAt .main 16665)).statusErr = 2 ∧
    (seqStep (liveAt .main 16665)).enabled .env = false := by decide

/-- L2.B1: latch with the counter's wrap, unlatch, and the two ends of the band. -/
theorem test_sampleUpdate : sampleUpdate ⟨true, 8, false, 4294967295⟩ = ⟨true, 9, true, 0⟩ ∧
    sampleUpdate ⟨false, 2, true, 5⟩ = ⟨false, 1, false, 5⟩ ∧
    sampleUpdate ⟨true, 7, false, 3⟩ = ⟨true, 8, false, 3⟩ ∧
    sampleUpdate ⟨true, 12, true, 3⟩ = ⟨true, 12, true, 3⟩ := by decide

/-- L2.Q1: with the take enabled, a HOST choice waits and the sequencer steps. -/
theorem test_take_first :
    ((nextOf (step ((after .dispNew State.reset).withFetchWord 32 0x20000000))).map State.seqPhase) =
      some .entry := by decide

/-- A command word offered after reset runs. -/
theorem test_first_step :
    ((nextOf (step (State.reset.withFetchWord 32 0xA0000000))).map State.csDepth) = some 1 := by decide

/-! ### Host procedures -/

/-- The glyph of L2.P1: column 2 fully on. -/
def barGlyph : Image := Vector.replicate 5 #v[0, 0, 255, 0, 0]

/-- L2.P1 and L2.P2: `trim`. -/
theorem test_trim : trim barGlyph = [2] ∧ trim zeroImage = [] := by decide

/-- L2.P1: two `SHOW` commands in all, and the column ends in column 3. -/
theorem test_scroll : ((scroll (fun _ => barGlyph) 1 0 false [0]).filter fun l => l == .cmd .showImage).length = 2 ∧
    (nextOf (execAll ((scroll (fun _ => barGlyph) 1 0 false [0]).filterMap fun l =>
      match l with
      | .cmd i => some i
      | .rd _ => none
      | .word _ => none
      | .suspend => none) live)).map State.stage = some (Vector.replicate 5 #v[0, 0, 0, 255, 0]) := by decide

/-- R260: a tick falls in the suspension of an offered program, before its next access. -/
theorem test_suspension : (nextOf (step ({ live with agenda := [] }.offerProgram
    [.suspend, .cmd .nop] [[.timer, .host (.read 0 4)]]))).map (fun s => (s.tcount, s.agenda)) =
      some (1, [.host (.write 0 4 0)]) := by decide

/-! ### Witnesses: states and operands that meet the hypotheses of the statements -/

/-- IllFormedParametersAreRefused. -/
theorem witness_ill_formed :
    ({ State.reset with params := { defaultParams with refreshRate := 1000000 } }).params.wellFormed = false := by
  decide

/-- NoStepWritesParameters, EveryStepKeepsTheInvariant, NoReachableStateFaults: a step from the invariant. -/
theorem witness_step : live.Inv ∧ ∃ t, step (live.withFetchWord 32 0) = .next t :=
  ⟨inv_of_invOk (by decide), exists_next (by decide)⟩

/-- SchedulesChangeOnlyBySwapOrCommand: SHOW changes `PENDING`. -/
theorem witness_show_changes_pending :
    (nextOf (step ({ live with pending := zeroSched defaultParams }.withFetchWord 32 0x20000000))).map
      State.pending = some sampleSched := by decide

/-- The same: the swap changes `ACTIVE`; the step is a HOST choice before which the sequencer steps. -/
theorem witness_swap_changes_active :
    (nextOf (step ({ liveAt .main 0 with
      curRow := some 4, rowPin := List.replicate 5 false, active := zeroSched defaultParams }.withFetchWord 32
        0))).map State.active = some sampleSched := by decide

/-- The same: DISP_NEW writes `ACTIVE`, in a state whose `ACTIVE` is another schedule. -/
theorem witness_dispNew_changes_active :
    (nextOf (step ({ State.reset with active := sampleSched }.withFetchWord 32 0x10000000))).map State.active =
      some (zeroSched defaultParams) := by decide

/-- ReachableStatesSatisfyTheInvariants, NoReachableStateFaults, HysteresisOfTheFilter (first clause): a
reachable state, for both revisions. -/
theorem witness_reachable : Reachable (State.fresh defaultParams true false [] 0) ∧
    Reachable (State.fresh params3x9 false true [] 0) :=
  ⟨.reset _ _ _ _ _ (by decide), .reset _ _ _ _ _ (by decide)⟩

/-- OnlyAlignedWordAccessesAreAdmitted: the first and last word of a window, and each way to be refused. -/
theorem witness_accesses :
    (let p := { defaultParams with blockBase := 0x1000 }
     [(0x1000, 4), (0x103C, 4)].all (fun x => (accessOffset p x.1 x.2).toOption.isSome) &&
      [(0x0FFC, 4), (0x1040, 4), (0x1001, 4), (0x1000, 1), (0x1000, 2), (0x103C, 8)].all
        (fun x => (accessOffset p x.1 x.2).toOption.isNone)) = true := by decide

/-- RegisterWindowReadsAndWrites: the last register, the first and the last reserved word, a byte of each end,
and a write to the first offset that ignores it. -/
theorem witness_registers : (0x18, live.colOut) ∈ [(0x14, live.rowOut), (0x18, live.colOut)] ∧
    (0x1C % 4 = 0 ∧ 0x1C ≤ 0x1C ∧ 0x1C < 0x40) ∧ (0x3C % 4 = 0 ∧ 0x1C ≤ 0x3C ∧ 0x3C < 0x40) ∧
    windowByte live 0x18 = 0x1B ∧ windowByte live 0x1B = 0 ∧
    nextOf (hostStep (.write 0x04 4 0) live) = some live := by decide

/-- StatusWordAndPinViews: both values of `DISP_INIT`, and a fault. -/
theorem witness_views : State.reset.dispInit = false ∧ live.dispInit = true ∧
    { live with fault := true }.fault = true := by decide

/-- AgentEnablingTable: each premise, and each agent enabled somewhere. -/
theorem witness_enabling : live.fault = false ∧ live.enabled .timer = true ∧ live.enabled .host = true ∧
    live.enabled .env = true ∧ (liveAt .entry 0).enabled .seq = true ∧
    { live with samplerRun := true }.enabled .sampler = true ∧ { live with csDepth := 1 }.csDepth ≠ 0 ∧
    (liveAt .check 0).seqPhase ≠ .idle := by decide

/-- EnabledAgentTakesItsStep: a state for each agent, which has a step and is the next choice. -/
theorem witness_agendas : live.params.wellFormed = true ∧
    [({ live with agenda := [.timer] }, Agent.timer, Choice.timer),
      ({ live with agenda := [.env .b true] }, .env, .env .b true),
      ({ liveAt .entry 0 with agenda := [.seq] }, .seq, .seq),
      ({ live with samplerRun := true, agenda := [.sampler] }, .sampler, .sampler),
      ({ live with agenda := [.host (.read 0 4)] }, .host, .host (.read 0 4))].all
      (fun x => x.1.enabled x.2.1 && x.1.agenda == [x.2.2] && x.1.params == live.params) = true := by decide

/-- SequencerGoesBeforeCooperativeSteps: a pass with a HOST and with a SAMPLER choice, and a tick of a stopped
timer. -/
theorem witness_order :
    [({ liveAt .entry 0 with agenda := [.host (.read 0 4)] }, Choice.host (.read 0 4)),
      ({ liveAt .check 0 with agenda := [.sampler] }, .sampler)].all
      (fun x => x.1.enabled .seq && x.1.agenda == [x.2] && !x.1.fault && x.1.params.wellFormed) = true ∧
    { State.reset with agenda := [.timer] }.enabled .timer = false ∧
    { State.reset with agenda := [.timer] }.enabled .seq = false ∧
    { State.reset with agenda := [.timer] }.agenda = [.timer] := by decide

/-- WordSpellsCommandExactlyByMaskAndMatch: a word that fits no row. -/
theorem witness_no_row : ∀ o : Opcode, 0xC0000000#32 &&& o.maskWord ≠ o.matchWord := by
  intro o; cases o <;> decide

/-- IllegalWordsRaiseIllegalCommand: a word for each way to be illegal. -/
theorem witness_illegal : 12 ≤ ((0xC0000000#32).extractLsb' 28 4).toNat ∧
    (0x42300180#32).extractLsb' 8 12 ≠ 0 ∧
    (((0x00000001#32).extractLsb' 28 4).toNat ∈ [0, 1, 2, 3, 10, 11] ∧ (0x00000001#32).extractLsb' 0 28 ≠ 0) ∧
    (((0x52300001#32).extractLsb' 28 4).toNat ∈ [5, 7] ∧ (0x52300001#32).extractLsb' 0 8 ≠ 0) ∧
    (((0x61000001#32).extractLsb' 28 4).toNat = 6 ∧ (0x61000001#32).extractLsb' 20 8 ≠ 0) ∧
    (((0x80100000#32).extractLsb' 28 4).toNat ∈ [8, 9] ∧ (0x80100000#32).extractLsb' 20 4 ≠ 0) := by decide

/-- StepRunsTheDecodedCommand, StepIsTheCommandInInvariantStates. -/
theorem witness_run : live.Inv ∧ live.params.wellFormed = true ∧ live.enabled .host = true ∧
    decode 0x20000000#32 = .command .showImage ∧
    { live with agenda := [.host (.write live.params.blockBase 4 0x20000000)] }.agenda =
      [.host (.write live.params.blockBase 4 0x20000000)] :=
  ⟨inv_of_invOk (by decide), by decide, by decide, by decide, rfl⟩

/-- ImgWriteSetsOneCell, ImgReadAnswersOneCell: the last cell, and the first index out of range of each operand. -/
theorem witness_cells : ((4 : Nibble).toNat < 5 ∧ (4 : Nibble).toNat < 5) ∧ 5 ≤ (5 : Nibble).toNat ∧
    imageGet (after (.imgWrite 4 4 9) live).stage 4 4 = 9 ∧ (after (.imgRead 0 4) live).result = 255 ∧
    (after (.imgWrite 4 5 9) live).statusErr = 4 ∧ (after (.imgRead 5 4) live).statusErr = 4 := by decide

/-- HardwareImageFollowsTheCellMap, BuildScheduleSortsEveryRow: well-formed parameters of both revisions, and a
hardware cell of `REV_3x9` no logical cell maps to. -/
theorem witness_maps : defaultParams.wellFormed = true ∧ defaultParams.revision = .rev5x5 ∧
    params3x9.wellFormed = true ∧ ∀ cell, params3x9.logicalToHw cell ≠ (2, 7) := by decide

/-- DispNewConstructsTheDisplayOnce, ShowPublishesTheStagingImage: both values of `DISP_INIT`. -/
theorem witness_dispInit : State.reset.dispInit = false ∧ live.dispInit = true := by decide

/-- TimerTickCountsAndMatches: the invariant with the display constructed, at the wrap and elsewhere. -/
theorem witness_tick : (liveAt .idle 16664).Inv ∧ (liveAt .idle 0).Inv ∧ live.dispInit = true :=
  ⟨inv_of_invOk (by decide), inv_of_invOk (by decide), by decide⟩

/-- InterruptEntryAndReturn: each phase, and both outcomes of the re-check at the deadline. -/
theorem witness_phases : (liveAt .idle 0).seqPhase = .idle ∧ (liveAt .entry 0).seqPhase = .entry ∧
    ((liveAt .check 836).cc0.toNat ≤ (liveAt .check 836).tcount.toNat ∧ (liveAt .check 836).irqLine = false) ∧
    (liveAt .check 835).tcount.toNat < (liveAt .check 835).cc0.toNat ∧
    { liveAt .check 836 with ev1 := true }.irqLine = true := by decide

/-- ContractViolationsStopTheBlock: a derived row of R, a broken invariant, a faulted state. -/
theorem witness_violations : (liveAt .main 16665).params.rows ≤ (liveAt .main 16665).tcount.toNat / 3333 ∧
    { State.reset with stepIdx := 6, agenda := [.env .a true] }.contractHolds = false ∧
    { State.reset with stepIdx := 6, agenda := [.env .a true] }.agenda = [.env .a true] ∧
    { State.reset with fault := true, agenda := [.timer] }.nextChoice.agent ≠ none ∧
    { State.reset with fault := true, agenda := [.reset true false] }.nextChoice = .reset true false := by decide

/-- RowTransitionSelectsTheDerivedRow: the first and the last row. -/
theorem witness_transition : live.Inv ∧ 0 < live.params.rows ∧ 4 < live.params.rows :=
  ⟨inv_of_invOk (by decide), by decide, by decide⟩

/-- MainAfterTransitionLightsTheUndueEntries: from row 4 to row 0, at the swap. -/
theorem witness_main_transition :
    { liveAt .main 67 with curRow := some 4, rowPin := List.replicate 5 false }.Inv ∧
    { liveAt .main 67 with curRow := some 4, rowPin := List.replicate 5 false }.curRow ≠ some (67 / 3333) :=
  ⟨inv_of_invOk (by decide), by decide⟩

/-- MainInTheCurrentRowTurnsOffTheDueEntries: entries due and not due; EqualTimesTurnOffTogether: the two
entries of time 3333. -/
theorem witness_main_same_row : (liveAt .main 1700).Inv ∧ (liveAt .main 1700).curRow = some (1700 / 3333) ∧
    (seqStep (liveAt .main 1700)).currentSchedule = sampleRow ∧ (sampleRow.map Entry.time)[3]? = some 3333 ∧
    (sampleRow.map Entry.time)[4]? = some 3333 ∧ (liveAt .main 1700).stepIdx ≤ 3 :=
  ⟨inv_of_invOk (by decide), by decide, by decide, by decide, by decide, by decide⟩

/-- ProgramPhaseWritesTheNextDeadline: an entry left, and none left. -/
theorem witness_program : (liveAt .program 0).Inv ∧ (liveAt .program 0).curRow = some 0 ∧
    (liveAt .program 0).stepIdx < (schedRow (liveAt .program 0).active 0).length ∧
    { liveAt .program 0 with stepIdx := 5 }.Inv ∧ (liveAt .program 0).params.cols ≤ 5 :=
  ⟨inv_of_invOk (by decide), by decide, by decide, inv_of_invOk (by decide), by decide⟩

/-- CompareValueIsAboveTheCapture: program P2, where 837 ticks fall between the two phases. -/
theorem witness_race : (liveAt .main 836).Inv ∧ { seqStep (liveAt .main 836) with tcount := 1673 }.Inv ∧
    { seqStep (liveAt .main 836) with tcount := 1673 }.seqPhase = .program ∧
    { seqStep (liveAt .main 836) with tcount := 1673 }.curRow = some 0 :=
  ⟨inv_of_invOk (by decide), inv_of_invOk (by decide), by decide, by decide⟩

/-- PassWithoutTicksReturns, SequencerOwnsItsStateAndPhases, DisplayIsNeverReleased: the invariant in every phase
of a pass, and a step that changes the phase. -/
theorem witness_every_phase : (liveAt .idle 0).Inv ∧ (liveAt .entry 0).Inv ∧ (liveAt .main 0).Inv ∧
    (liveAt .program 0).Inv ∧ (liveAt .check 836).Inv ∧
    { liveAt .check 836 with agenda := [.seq] }.nextChoice.agent ≠ none ∧
    (nextOf (step { liveAt .check 836 with agenda := [.seq] })).map State.seqPhase = some .entry :=
  ⟨inv_of_invOk (by decide), inv_of_invOk (by decide), inv_of_invOk (by decide), inv_of_invOk (by decide),
    inv_of_invOk (by decide), by decide, by decide⟩

/-- FirstPassStartsABlankFrame: the reset state. -/
theorem witness_first_pass : State.reset.Inv ∧ State.reset.dispInit = false ∧ State.reset.csDepth = 0 ∧
    State.reset.seqPhase = .idle ∧ State.reset.pending = zeroSched State.reset.params ∧
    ∃ t, exec .dispNew State.reset = .next t :=
  ⟨inv_of_invOk (by decide), by decide, by decide, by decide, by decide, exists_next (by decide)⟩

/-- IdealTickKeepsRendering, IdealRunLightsEachLedForItsTime, PublishedScheduleIsActiveWithinAFrame,
CooperativeStepsKeepRendering: the state of P1 step 10 renders. -/
theorem witness_rendering : live.Rendering :=
  ⟨inv_of_invOk (by decide), by decide, by decide, by decide, by decide, by decide, by decide, by decide,
    by decide, by decide, by decide⟩

/-- The same statements: the entry of column 3 in row 0, and a command that is not CS_ENTER. -/
theorem witness_rendering_entry : 0 < live.params.rows ∧ entry (836, 3) ∈ schedRow live.active 0 ∧
    ∃ t, exec .csExit live = .next t := ⟨by decide, by decide, exists_next (by decide)⟩

/-- IdealTickKeepsRendering: the counter value before the wrap. -/
theorem witness_wrap : (liveAt .idle 16664).count + 1 = live.params.tpf := by decide

/-- BtnNewBindsTheHandle: the last slot with each button, and the first operands out of range. -/
theorem witness_btnNew : (3 : Nibble).toNat < 4 ∧ (0 : Nibble).toNat = 0 ∧ (1 : Nibble).toNat = 1 ∧
    4 ≤ (4 : Nibble).toNat ∧ 2 ≤ (2 : Nibble).toNat := by decide

/-- BtnWasPressedComparesAndUpdatesTheSnapshot, BtnIsPressedAnswersTheRawInput: the last slot valid and not
valid, and the first handle out of range. -/
theorem witness_handles : (bound 0 1).handles[(3 : Nibble).toNat].valid = true ∧
    State.reset.handles[(3 : Nibble).toNat].valid = false ∧ 4 ≤ (4 : Nibble).toNat := by decide

/-- SamplerAndInputSteps: each of the three cases at its threshold. -/
theorem witness_thresholds : sampleUpdate ⟨true, 8, false, 0⟩ = ⟨true, 9, true, 1⟩ ∧
    sampleUpdate ⟨false, 2, true, 0⟩ = ⟨false, 1, false, 0⟩ ∧
    sampleUpdate ⟨false, 3, true, 0⟩ = ⟨false, 2, true, 0⟩ := by decide

/-- HysteresisOfTheFilter: each clause at the ends of its range (L1.5, L2.B4, L2.B5). -/
theorem witness_hysteresis : sampleUpdate^[8] ⟨true, 0, false, 0⟩ = ⟨true, 8, false, 0⟩ ∧
    sampleUpdate^[9] ⟨true, 0, false, 0⟩ = ⟨true, 9, true, 1⟩ ∧
    sampleUpdate^[11] ⟨false, 12, true, 1⟩ = ⟨false, 1, false, 1⟩ ∧
    sampleUpdate^[7] ⟨false, 9, true, 1⟩ = ⟨false, 2, true, 1⟩ ∧
    sampleUpdate^[8] ⟨true, 1, false, 1⟩ = ⟨true, 9, true, 2⟩ := by decide

/-- EveryLatchingCountsOnePress: a sampler step that latches, through the step of the machine. -/
theorem witness_latching :
    (nextOf (step { State.reset with
      samplerRun := true, agenda := [.sampler], btnA := ⟨true, 8, false, 4⟩ })).map State.btnA =
      some ⟨true, 9, true, 5⟩ := by decide

/-- NopWritesResultAndStatusOnly: another word with `OP` = 0. -/
theorem witness_op_zero : (0x00000001#32).extractLsb' 28 4 = 0 ∧ (0x00000001#32) ≠ 0 := by decide

/-- CriticalSectionDepth: both bounds of both commands. -/
theorem witness_depths : (254 : BitVec 8).toNat < 255 ∧ (255 : BitVec 8).toNat = 255 ∧ 0 < (1 : BitVec 8).toNat ∧
    (0 : BitVec 8).toNat = 0 ∧ (after .csEnter { State.reset with csDepth := 254 }).csDepth = 255 := by decide

/-- CriticalSectionDepth: the last clause, a section ending with a match pending. -/
theorem witness_section_end : { live with csDepth := 1, ev0 := true }.csDepth.toNat = 1 ∧
    { live with csDepth := 1, ev0 := true }.seqPhase = .idle ∧
    { live with csDepth := 1, ev0 := true }.irqLine = true ∧
    (after .csExit { live with csDepth := 1, ev0 := true }).take = true := by decide

/-- The words of the statements about commands with operands: every used field at its highest value. -/
theorem witness_words : 0x4FF000FF#32 &&& 0xF00FFF00#32 = 0x40000000#32 ∧
    0x5FF00000#32 &&& 0xF00FFFFF#32 = 0x50000000#32 ∧ 0x600000FF#32 &&& 0xFFFFFF00#32 = 0x60000000#32 ∧
    0x7FF00000#32 &&& 0xF00FFFFF#32 = 0x70000000#32 ∧ 0x8F000000#32 &&& 0xF0FFFFFF#32 = 0x80000000#32 ∧
    0x9F000000#32 &&& 0xF0FFFFFF#32 = 0x90000000#32 := by decide

/-- ProgramInterleavesWithEveryOtherAgent: a list of choices with a tick, a sample and an input change between
the two accesses of a program, one interval a suspension, one after the last line. -/
theorem witness_interleaving :
    let cs : List Choice := [.seq, .host (.write 0 4 0x20000000), .timer, .sampler, .env .a true,
      .host (.read 8 4), .timer]
    cs.all (fun c => besideHost c || (hostOp? c).isSome) = true ∧
    hostAccesses cs = [HostAct.cmd .showImage, .suspend, .rd .status].filterMap (fun l => l.op? defaultParams) ∧
    programAgenda defaultParams [.cmd .showImage, .suspend, .rd .status]
      [[.seq], [.timer, .sampler], [.env .a true], [.timer]] = cs := by decide

/-- A rendering display, the HOST about to issue a SHOW, a suspension of one frame and the next shift. -/
def suspended : State := { live with
  agenda := programAgenda live.params (.cmd .showImage :: .suspend :: [.cmd (.imgShiftLeft 1)])
    ([] :: idealInterval 16665 :: []) }

/-- ShownImageIsActiveAfterTheSuspension. -/
theorem witness_suspension : suspended.Rendering ∧ suspended.params.tpf ≤ 16665 ∧
    suspended.agenda = programAgenda suspended.params (.cmd .showImage :: .suspend :: [.cmd (.imgShiftLeft 1)])
      ([] :: idealInterval 16665 :: []) :=
  ⟨⟨inv_of_invOk (by decide), by decide, by decide, by decide, by decide, by decide, by decide, by decide,
    by decide, by decide, by decide⟩, by decide, rfl⟩

/-- HostProceduresBuildTheirImages: a constructed display; the columns of a glyph with an inner blank one. -/
theorem witness_host_procedures : live.dispInit = true ∧
    trim (Vector.replicate 5 #v[0, 1, 0, 1, 0]) = [1, 2, 3] := by decide

/-- ResetSetsEveryElement: a faulted state whose next choice is a reset. -/
theorem witness_reset : { live with fault := true, agenda := [.reset true false] }.params.wellFormed = true ∧
    { live with fault := true, agenda := [.reset true false] }.nextChoice = .reset true false := by decide

/-- A display just constructed; then a tick and an input change before a read. -/
def interrupted : State :=
  { after .dispNew State.reset with agenda := [.timer, .env .a true, .host (.read 0 4)] }

/-- PendingInterruptIsTakenBeforeCooperativeSteps. -/
theorem witness_pending_interrupt : interrupted.Inv ∧ interrupted.take = true ∧
    interrupted.agenda = [.timer, .env .a true] ++ .host (.read 0 4) :: [] :=
  ⟨inv_of_invOk (by decide), by decide, by decide⟩

end Sys2Proof.Tests
end

section
/-! The scope of the model (00_scope.md): the parameter sets it admits, and the refusal of every other. -/

namespace Sys2Proof

/-- Each logical cell is listed once (R130). -/
theorem nodup_logicalCells : logicalCells.Nodup := by decide

/-- The check of the listed images says that `LOGICAL_TO_HW` is injective on all logical cells (R10). -/
theorem Params.nodup_map_logicalToHw_iff (p : Params) :
    (logicalCells.map p.logicalToHw).Nodup ↔ ∀ x y, p.logicalToHw x = p.logicalToHw y → x = y := by
  rw [List.nodup_map_iff_inj_on nodup_logicalCells]
  exact ⟨fun inj x y => inj x (mem_logicalCells x) y (mem_logicalCells y), fun inj x _ y _ => inj x y⟩

/-- Well-formedness in the words of R10, with injectivity said of the map itself. -/
theorem Params.wellFormed_iff_injective (p : Params) : p.wellFormed = true ↔
    1 ≤ p.tpr ∧ p.tpf < 2 ^ 32 ∧ (∀ x y, p.logicalToHw x = p.logicalToHw y → x = y) ∧
      (∀ x, (p.logicalToHw x).1 < p.rows ∧ (p.logicalToHw x).2 < p.cols) ∧ 1 ≤ p.rows ∧ 1 ≤ p.cols := by
  rw [p.wellFormed_iff, p.nodup_map_logicalToHw_iff]

namespace Machine

/-- Under an ill-formed parameter set every choice is refused, a reset and a fault's stop included (R10). -/
theorem runChoice_of_illFormed (c : Choice) {s : State} (h : s.params.wellFormed = false) :
    runChoice c s = .refused .illFormedParameters := if_pos h

/-- Taking the next choice leaves the parameters, so the step itself is refused (R10, R30). -/
theorem step_of_illFormed {s : State} (h : s.params.wellFormed = false) :
    step s = .refused .illFormedParameters :=
  runChoice_of_illFormed s.nextChoice (by rwa [State.dropChoice_params])

/-- Settles O1: R10 clause by clause, and the refusal of every step under any other parameter set. -/
theorem illFormedParametersAreRefused : Obligations.IllFormedParametersAreRefused :=
  ⟨Params.wellFormed_iff_injective, fun _ => step_of_illFormed⟩

end Machine

end Sys2Proof
end

section
/-! The derived signals of 10_state.md and the table of 20_memory.md section 3 in the words of their rules: the
interrupt request (R49), the take condition and the agents that have a step (R82), and what a critical section
and a running pass exclude (R243). -/

namespace Sys2Proof.Machine

theorem State.seqIdle_iff (s : State) : s.seqIdle = true ↔ s.seqPhase = .idle := beq_iff_eq

theorem State.unmasked_iff (s : State) : s.unmasked = true ↔ s.csDepth = 0 := beq_iff_eq

/-- The request is the disjunction of the two enabled compare events and the software pend (R49). -/
theorem State.irqLine_iff (s : State) : s.irqLine = true ↔
    (s.ev0 = true ∧ s.inten0 = true) ∨ (s.ev1 = true ∧ s.inten1 = true) ∨ s.swpend = true := by
  simp only [State.irqLine, Bool.or_eq_true, Bool.and_eq_true, or_assoc]

/-- The take needs the handler at rest, a request, and no critical section (R82). -/
theorem State.take_iff (s : State) :
    s.take = true ↔ s.seqPhase = .idle ∧ s.irqLine = true ∧ s.csDepth = 0 := by
  simp only [State.take, Bool.and_eq_true, s.seqIdle_iff, s.unmasked_iff, and_assoc]

/-- A critical section holds the interrupt pending (R82, R243). -/
theorem State.take_of_masked {s : State} (masked : s.csDepth ≠ 0) : s.take = false :=
  Bool.eq_false_iff.mpr fun take =>
    have ⟨_, _, unmasked⟩ := s.take_iff.mp take
    masked unmasked

/-- A fault stops every agent (R82). -/
theorem State.enabled_of_fault {s : State} (fault : s.fault = true) (a : Agent) : s.enabled a = false := by
  cases a <;> simp only [State.enabled, fault, Bool.not_true, Bool.false_and]

/-! The rows of the table of R82, one lemma each, the fault bit included. -/

theorem State.enabled_timer_iff (s : State) :
    s.enabled .timer = true ↔ s.fault = false ∧ s.trun = true := by
  simp only [State.enabled, Bool.and_eq_true, Bool.not_eq_true']

theorem State.enabled_env_iff (s : State) : s.enabled .env = true ↔ s.fault = false := by
  simp only [State.enabled, Bool.not_eq_true']

theorem State.enabled_seq_iff (s : State) :
    s.enabled .seq = true ↔ s.fault = false ∧ (s.take = true ∨ s.seqPhase ≠ .idle) := by
  simp only [State.enabled, Bool.and_eq_true, Bool.or_eq_true, Bool.not_eq_true', ← Bool.not_eq_true,
    s.seqIdle_iff, ne_eq]

theorem State.enabled_host_iff (s : State) :
    s.enabled .host = true ↔ s.fault = false ∧ s.seqPhase = .idle ∧ ¬s.take = true := by
  simp only [State.enabled, Bool.and_eq_true, Bool.not_eq_true', ← Bool.not_eq_true, s.seqIdle_iff]

theorem State.enabled_sampler_iff (s : State) : s.enabled .sampler = true ↔
    s.fault = false ∧ s.samplerRun = true ∧ s.csDepth = 0 ∧ s.seqPhase = .idle ∧ ¬s.take = true := by
  simp only [State.enabled, Bool.and_eq_true, Bool.not_eq_true', ← Bool.not_eq_true, s.seqIdle_iff,
    s.unmasked_iff, and_assoc]

/-- A critical section keeps the SAMPLER from sampling (R82, R243). -/
theorem State.enabled_sampler_of_masked {s : State} (masked : s.csDepth ≠ 0) : s.enabled .sampler = false :=
  Bool.eq_false_iff.mpr fun enabled =>
    have ⟨_, _, unmasked, _⟩ := s.enabled_sampler_iff.mp enabled
    masked unmasked

/-- A pass already running excludes every HOST step, so no CS_ENTER interrupts it (R243). -/
theorem State.enabled_host_of_running {s : State} (running : s.seqPhase ≠ .idle) : s.enabled .host = false :=
  Bool.eq_false_iff.mpr fun enabled =>
    have ⟨_, idle, _⟩ := s.enabled_host_iff.mp enabled
    running idle

/-- Settles O10: the two signals, the table of R82 row by row with the fault bit 0, and what a critical section
and a running pass exclude. -/
theorem agentEnablingTable : Obligations.AgentEnablingTable := by
  intro s
  refine ⟨s.irqLine_iff, s.take_iff, State.enabled_of_fault, fun noFault => ?rows,
    fun masked => ⟨State.take_of_masked masked, State.enabled_sampler_of_masked masked⟩,
    State.enabled_host_of_running⟩
  case rows =>
    exact ⟨s.enabled_timer_iff.trans (and_iff_right noFault), s.enabled_env_iff.mpr noFault,
      s.enabled_seq_iff.trans (and_iff_right noFault), s.enabled_host_iff.trans (and_iff_right noFault),
      s.enabled_sampler_iff.trans (and_iff_right noFault)⟩

end Sys2Proof.Machine
end

section
/-! The register views of 20_memory.md section 2: the fields of the `STATUS` word (R77), the pin views (R78),
and the writes that a register other than `CMD` ignores (R75). -/

namespace Sys2Proof.Machine

/-! ### STATUS (R77) -/

/-- A field of `STATUS` is a range of its bits, each read off `statusWord_getLsbD`. -/
theorem State.statusWord_field {s : State} {start len : Nat} {field : BitVec len}
    (bits : ∀ i < len, s.statusWord.getLsbD (start + i) = field.getLsbD i) :
    s.statusWord.extractLsb' start len = field := by
  refine BitVec.eq_of_getLsbD_eq fun i inField => ?_
  rw [BitVec.getLsbD_extractLsb', bits i inField, decide_eq_true inField, Bool.true_and]

theorem State.statusWord_statusErr (s : State) : s.statusWord.extractLsb' 0 8 = s.statusErr :=
  State.statusWord_field fun i inField => by
    rw [statusWord_getLsbD, Nat.zero_add, if_pos inField]

theorem State.statusWord_csDepth (s : State) : s.statusWord.extractLsb' 16 8 = s.csDepth :=
  State.statusWord_field fun i inField => by
    rw [statusWord_getLsbD, if_neg (by omega), if_neg (by omega), if_neg (by omega), if_neg (by omega),
      if_neg (by omega), if_pos (by omega), Nat.add_sub_cancel_left]

/-- The bits between the fault flag and the nesting depth are reserved, and so are those above the depth. -/
theorem State.statusWord_reservedBit (s : State) {i : Nat} (reserved : 11 ≤ i ∧ i < 16 ∨ 24 ≤ i) :
    s.statusWord.getLsbD i = false := by
  rw [statusWord_getLsbD, if_neg (by omega), if_neg (by omega), if_neg (by omega), if_neg (by omega)]
  split_ifs
  · rfl
  · omega
  · rfl

theorem State.statusWord_reservedField (s : State) {start len : Nat}
    (reserved : ∀ i < len, 11 ≤ start + i ∧ start + i < 16 ∨ 24 ≤ start + i) :
    s.statusWord.extractLsb' start len = 0 :=
  State.statusWord_field fun i inField => by
    rw [s.statusWord_reservedBit (reserved i inField)]
    exact BitVec.getLsbD_zero.symm

/-! ### ROW_OUT and COL_OUT (R78) -/

theorem State.pinViews_of_off {s : State} (off : s.dispInit = false) : s.rowOut = 0 ∧ s.colOut = 0 := by
  simp [State.rowOut, State.colOut, off]

theorem State.rowOut_getLsbD {s : State} (on : s.dispInit = true) (i : Nat) :
    s.rowOut.getLsbD i = (decide (i < s.params.rows) && s.rowPin.getD i false) := by
  rw [State.rowOut, if_pos on, bitsToWord_take_getLsbD _ _ _ (s.params.rows_le.trans (by decide))]

theorem State.colOut_getLsbD {s : State} (on : s.dispInit = true) (i : Nat) :
    s.colOut.getLsbD i = (decide (i < s.params.cols) && s.colOn.getD i false) := by
  rw [State.colOut, if_pos on, bitsToWord_take_getLsbD _ _ _ (s.params.cols_le.trans (by decide))]

/-! ### Word accesses (R72, R75) -/

/-- A word access at an aligned offset of the window is admitted (R72). -/
theorem accessOffset_of_aligned (p : Params) {off : Nat} (inside : off < 0x40) (aligned : off % 4 = 0) :
    accessOffset p (p.blockBase + off) 4 = .ok off := by
  simp only [accessOffset, windowBytes, Nat.add_sub_cancel_left]
  rw [if_neg (by omega), if_neg (by omega), if_neg (by omega)]

/-- `CMD` is the first word of the window and no other (R71). -/
theorem windowReg_ne_cmd {off : Nat} (later : 4 ≤ off) : windowReg off ≠ .cmd := by
  unfold windowReg
  split
  · omega
  all_goals nofun

/-- A write to any word of the window but `CMD` is admitted and changes nothing (R75, R76). -/
theorem hostStep_write_ignored (s : State) (w : Word) {off : Nat} (later : 4 ≤ off) (inside : off < 0x40)
    (aligned : off % 4 = 0) : hostStep (.write (s.params.blockBase + off) 4 w) s = .next s := by
  simp only [hostStep, hostWrite, accessOffset_of_aligned s.params inside aligned,
    if_neg (windowReg_ne_cmd later)]

/-- Settles O9: each field of `STATUS` from the bits of its word, the pin views from the bits of a pin list,
and the three offsets as words of the window past `CMD`. -/
theorem statusWordAndPinViews : Obligations.StatusWordAndPinViews := by
  intro s
  refine ⟨s.statusWord_statusErr, statusWord_getLsbD s 8, statusWord_getLsbD s 9, statusWord_getLsbD s 10,
    s.statusWord_reservedField (by omega), s.statusWord_csDepth, s.statusWord_reservedField (by omega),
    fun w off readOnly => ?ignored, fun fault => State.enabled_of_fault fault .host, State.pinViews_of_off,
    fun on i => ⟨State.rowOut_getLsbD on i, State.colOut_getLsbD on i⟩⟩
  case ignored =>
    have past : 4 ≤ off ∧ off < 0x40 ∧ off % 4 = 0 := by
      simp only [List.mem_cons, List.not_mem_nil, or_false] at readOnly
      omega
    obtain ⟨later, inside, aligned⟩ := past
    exact hostStep_write_ignored s w later inside aligned

end Sys2Proof.Machine
end

section
/-! The decoder against the opcode table of 30_encoding.md: which row a decoded command belongs to (R101, R102),
the fields each row leaves unused (R103, R105), and what executing a word of no row does (R104, R110). -/

namespace Sys2Proof

/-! ### The row of a decoded command (R102) -/

/-- Operands taken from a word do not change the row, so rows assemble to different commands. -/
@[simp] theorem opcode_assemble (o : Opcode) (w : Word) : (assemble o w).opcode = o := by
  cases o <;> rfl

/-- A word decodes to the command of a row, with the operands of its fields, exactly when it spells the row. -/
theorem decode_eq_assemble_iff (o : Opcode) (w : Word) :
    decode w = .command (assemble o w) ↔ w &&& o.maskWord = o.matchWord := by
  rw [← spells_iff]
  refine ⟨fun decoded => ?_, decode_of_spells⟩
  obtain ⟨row, spelled, same⟩ := spells_of_decode decoded
  have sameRow : o = row := by simpa using congrArg Instr.opcode same
  rwa [sameRow]

theorem spells_eq_false_iff (o : Opcode) (w : Word) : spells o w = false ↔ w &&& o.maskWord ≠ o.matchWord := by
  rw [← Bool.not_eq_true, spells_iff]

/-- Settles O14: each clause is the row's own, its mask, match and operand fields written out. -/
theorem wordSpellsCommandExactlyByMaskAndMatch : Obligations.WordSpellsCommandExactlyByMaskAndMatch := fun w =>
  ⟨decode_eq_assemble_iff .nop w, decode_eq_assemble_iff .dispNew w, decode_eq_assemble_iff .showImage w,
    decode_eq_assemble_iff .imgClear w, decode_eq_assemble_iff .imgWrite w, decode_eq_assemble_iff .imgRead w,
    decode_eq_assemble_iff .imgShiftLeft w, decode_eq_assemble_iff .btnNew w,
    decode_eq_assemble_iff .btnWasPressed w, decode_eq_assemble_iff .btnIsPressed w,
    decode_eq_assemble_iff .csEnter w, decode_eq_assemble_iff .csExit w,
    fun noRow => ⟨_, decode_of_spells_none fun o => (spells_eq_false_iff o w).mpr (noRow o)⟩⟩

/-! ### Unused fields (R103, R105) -/

/-- The row does not use the field of `len` bits at `start`: its mask covers the field, where its match is 0. -/
def Opcode.unused (o : Opcode) (start len : Nat) : Bool :=
  o.maskWord.extractLsb' start len == BitVec.allOnes len && o.matchWord.extractLsb' start len == 0

/-- A word that spells a row is 0 in every field the row does not use (R105). -/
theorem field_eq_zero_of_spells {o : Opcode} {w : Word} {start len : Nat} (spelled : spells o w = true)
    (unused : o.unused start len = true) : w.extractLsb' start len = 0 := by
  obtain ⟨covered, zero⟩ : o.maskWord.extractLsb' start len = BitVec.allOnes len ∧
      o.matchWord.extractLsb' start len = 0 := by
    simpa [Opcode.unused] using unused
  calc w.extractLsb' start len
    _ = (w &&& o.maskWord).extractLsb' start len := by rw [BitVec.extractLsb'_and, covered, BitVec.and_allOnes]
    _ = 0 := by rw [(spells_iff o w).mp spelled, zero]

/-- The numbers 12 to 15 are reserved (R104). -/
theorem Opcode.number_lt (o : Opcode) : o.number.toNat < 12 := by cases o <;> decide

/-! The fields each row leaves unused, by its `OP` (R103). -/

theorem Opcode.unused_rsv (o : Opcode) : o.unused 8 12 = true := by cases o <;> decide

theorem Opcode.unused_belowOp {o : Opcode} (row : o.number.toNat ∈ [0, 1, 2, 3, 10, 11]) :
    o.unused 0 28 = true := by
  revert row; cases o <;> decide

theorem Opcode.unused_imm8 {o : Opcode} (row : o.number.toNat ∈ [5, 7, 8, 9]) : o.unused 0 8 = true := by
  revert row; cases o <;> decide

theorem Opcode.unused_ab {o : Opcode} (row : o.number.toNat = 6) : o.unused 20 8 = true := by
  revert row; cases o <;> decide

theorem Opcode.unused_b {o : Opcode} (row : o.number.toNat ∈ [8, 9]) : o.unused 20 4 = true := by
  revert row; cases o <;> decide

namespace Machine

/-- A word that spells no row raises `ILLEGAL_COMMAND` (R104, R110). -/
theorem executeWord_of_spells_none {w : Word} (noRow : ∀ o, spells o w = false) (s : State) :
    executeWord w s = .next (s.cmdError .illegalCommand) := by
  rw [executeWord, decode_of_spells_none noRow]

/-- Settles O15: a row the word spelled would have the word's `OP`, and each way to be illegal contradicts the
row of that `OP`. -/
theorem illegalWordsRaiseIllegalCommand : Obligations.IllegalWordsRaiseIllegalCommand := by
  intro w s illegal
  refine executeWord_of_spells_none (fun o => Bool.eq_false_iff.mpr fun spelled => ?_) s
  have op : w.extractLsb' 28 4 = o.number := fieldOp_of_spells spelled
  rw [op] at illegal
  rcases illegal with reserved | noRow | rsv | ⟨row, used⟩ | ⟨row, used⟩ | ⟨row, used⟩ | ⟨row, used | used⟩
  · exact absurd reserved o.number_lt.not_ge
  · exact noRow o ((spells_iff o w).mp spelled)
  · exact rsv (field_eq_zero_of_spells spelled o.unused_rsv)
  · exact used (field_eq_zero_of_spells spelled (Opcode.unused_belowOp row))
  · exact used (field_eq_zero_of_spells spelled (Opcode.unused_imm8 (List.mem_append_left [8, 9] row)))
  · exact used (field_eq_zero_of_spells spelled (Opcode.unused_ab row))
  · exact used (field_eq_zero_of_spells spelled (Opcode.unused_b row))
  · exact used (field_eq_zero_of_spells spelled (Opcode.unused_imm8 (List.mem_append_right [5, 7] row)))

end Machine

end Sys2Proof
end

section
/-! The image commands of 40_image.md: what each makes of the staging image (R131 to R134), and the index
operands that raise `OPERAND_RANGE` (R132, R133). -/

namespace Sys2Proof.Machine

/-! ### IMG_CLEAR (R131) -/

/-- Settles O20: the staging image becomes the all-zero image. -/
theorem imgClearZeroesTheStagingImage : Obligations.ImgClearZeroesTheStagingImage :=
  ⟨decode_of_spells (o := .imgClear) rfl, fun _ => ⟨_, rfl, rfl, imageGet_zeroImage⟩⟩

/-! ### Index operands of 5 or more (R132, R133) -/

/-- An index of 5 or more names no cell, so both commands that address a cell raise `OPERAND_RANGE`. -/
theorem exec_imgWrite_imgRead_of_ge {row col : Nibble} (outside : 5 ≤ row.toNat ∨ 5 ≤ col.toNat) (b : Byte)
    (s : State) : exec (.imgWrite row col b) s = .next (s.cmdError .operandRange) ∧
      exec (.imgRead row col) s = .next (s.cmdError .operandRange) := by
  change execImgWrite row col b s = _ ∧ execImgRead row col s = _
  unfold execImgWrite execImgRead
  rcases outside with hr | hc
  · rw [cellIndex_of_ge hr]
    exact ⟨rfl, rfl⟩
  · rw [cellIndex_of_ge hc]
    cases cellIndex row <;> exact ⟨rfl, rfl⟩

/-! ### IMG_WRITE (R132) -/

theorem exec_imgWrite_of_lt {row col : Nibble} (hr : row.toNat < 5) (hc : col.toNat < 5) (b : Byte) (s : State) :
    exec (.imgWrite row col b) s =
      .next ({ s with stage := imageSet s.stage ⟨row.toNat, hr⟩ ⟨col.toNat, hc⟩ b }.complete 0) := by
  change execImgWrite row col b s = _
  rw [execImgWrite, cellIndex_of_lt hr, cellIndex_of_lt hc, brightnessOf]

/-- Settles O21: the cell the operands name is the one cell `imageSet` replaces. -/
theorem imgWriteSetsOneCell : Obligations.ImgWriteSetsOneCell := by
  refine ⟨fun w => (decode_eq_assemble_iff .imgWrite w).mpr, fun s row col b => ⟨?_, fun outside => ?_⟩⟩
  · rintro ⟨hr, hc⟩
    refine ⟨_, exec_imgWrite_of_lt hr hc b s, rfl, fun r c => ?_⟩
    simp only [State.complete_stage, imageGet_imageSet, Fin.ext_iff]
  · exact (exec_imgWrite_imgRead_of_ge outside b s).1

/-! ### IMG_READ (R133) -/

theorem exec_imgRead_of_lt {row col : Nibble} (hr : row.toNat < 5) (hc : col.toNat < 5) (s : State) :
    exec (.imgRead row col) s =
      .next (s.complete ((imageGet s.stage ⟨row.toNat, hr⟩ ⟨col.toNat, hc⟩).setWidth 32)) := by
  change execImgRead row col s = _
  rw [execImgRead, cellIndex_of_lt hr, cellIndex_of_lt hc]
  rfl

/-- Settles O22: the answer is the addressed cell of the staging image. -/
theorem imgReadAnswersOneCell : Obligations.ImgReadAnswersOneCell :=
  ⟨fun w => (decode_eq_assemble_iff .imgRead w).mpr, fun s _ _ =>
    ⟨fun hr hc => exec_imgRead_of_lt hr hc s, fun outside => (exec_imgWrite_imgRead_of_ge outside 0 s).2⟩⟩

/-! ### IMG_SHIFT_LEFT (R134) -/

/-- Settles O23: the shift is total in its count, so no bound on it is checked. -/
theorem imgShiftLeftShiftsEveryRow : Obligations.ImgShiftLeftShiftsEveryRow :=
  ⟨fun w => (decode_eq_assemble_iff .imgShiftLeft w).mpr, fun s n =>
    ⟨_, rfl, rfl, imageGet_imageShiftLeft s.stage n.toNat⟩⟩

end Sys2Proof.Machine
end

section
/-! The Render Schedule Builder of 40_image.md: the times (R135, R139), the hardware image (R136) and the sorted
rows (R137), whose order of equal times is the stability of the sort (R138). -/

namespace Sys2Proof.Machine

/-! ### The times (R135, R139) -/

theorem timeOf_mono (p : Params) {x y : Byte} (le : x.toNat ≤ y.toNat) : timeOf p x ≤ timeOf p y :=
  Nat.div_le_div_right (Nat.mul_le_mul_left p.tpr le)

theorem timeOf_zero (p : Params) : timeOf p 0 = 0 := by simp [timeOf]

/-- Full brightness lasts the whole row window. -/
theorem timeOf_full (p : Params) : timeOf p 255 = p.tpr := Nat.mul_div_cancel p.tpr (by decide)

theorem one_le_timeOf_iff (p : Params) (b : Byte) : 1 ≤ timeOf p b ↔ 255 ≤ p.tpr * b.toNat :=
  Nat.div_pos_iff.trans (and_iff_right (by decide))

/-! ### The hardware image (R136) -/

/-- A hardware cell takes the value of the one logical cell mapped to it. -/
theorem hwCell_of_mapped {p : Params} (wf : p.wellFormed = true) (m : Image) {cell : Fin 5 × Fin 5} {r c : Nat}
    (mapped : p.logicalToHw cell = (r, c)) : hwCell p m r c = imageGet m cell.1 cell.2 := by
  unfold hwCell
  cases found : logicalCells.find? fun cell => p.logicalToHw cell == (r, c) with
  | none => exact absurd (beq_iff_eq.mpr mapped) (List.find?_eq_none.mp found cell (mem_logicalCells cell))
  | some other =>
    have mapped' : p.logicalToHw other = (r, c) := by simpa using List.find?_some found
    rw [p.logicalToHw_injective wf (mapped'.trans mapped.symm)]

theorem hwCell_of_unmapped {p : Params} (m : Image) {r c : Nat}
    (unmapped : ∀ cell, p.logicalToHw cell ≠ (r, c)) : hwCell p m r c = 0 := by
  have notFound : logicalCells.find? (fun cell => p.logicalToHw cell == (r, c)) = none :=
    List.find?_eq_none.mpr fun cell _ => mt beq_iff_eq.mp (unmapped cell)
  rw [hwCell, notFound]

theorem hwCell_zeroImage (p : Params) (r c : Nat) : hwCell p zeroImage r c = 0 := by
  unfold hwCell
  split
  · exact imageGet_zeroImage _ _
  · rfl

theorem logicalToHw_rev5x5 {p : Params} (rev : p.revision = .rev5x5) (cell : Fin 5 × Fin 5) :
    p.logicalToHw cell = (cell.1.val, cell.2.val) := by
  rw [Params.logicalToHw, rev]

/-- Settles O24: on `REV_5x5` the map is the identity, so its clause is that of a mapped cell. -/
theorem hardwareImageFollowsTheCellMap : Obligations.HardwareImageFollowsTheCellMap := fun _ m wf =>
  ⟨fun rev r c => hwCell_of_mapped wf m (logicalToHw_rev5x5 rev (r, c)),
    fun _ _ => hwCell_of_mapped wf m rfl, fun _ _ => hwCell_of_unmapped m⟩

/-! ### The rows of a built schedule (R137, R138) -/

/-- Sorting is stable: the entries of one time keep their order (R138). -/
theorem filter_sortRow (row : RowSchedule) (t : BitVec 32) :
    (sortRow row).filter (·.time = t) = row.filter (·.time = t) := by
  have sorted : (row.filter (·.time = t)).Pairwise fun x y => x.time.toNat ≤ y.time.toNat :=
    List.pairwise_of_forall_mem_list fun x hx y hy => by
      obtain ⟨-, hx⟩ : x ∈ row ∧ x.time = t := by simpa using hx
      obtain ⟨-, hy⟩ : y ∈ row ∧ y.time = t := by simpa using hy
      rw [hx, hy]
  have kept : (row.filter (·.time = t)).Sublist ((sortRow row).filter (·.time = t)) := by
    simpa [sortRow] using (List.sublist_insertionSort sorted List.filter_sublist).filter (·.time = t)
  exact (kept.eq_of_length ((sortRow_perm row).symm.filter _).length_eq).symm

/-- Entries given in column order are sorted by time, and by column where times are equal (R137). -/
theorem sortRow_sorted_by_column {row : RowSchedule} (ascending : row.Pairwise fun x y => x.col < y.col) :
    (sortRow row).Pairwise fun x y =>
      x.time.toNat < y.time.toNat ∨ (x.time.toNat = y.time.toNat ∧ x.col < y.col) := by
  refine List.pairwise_iff_forall_sublist.mpr fun {x y} pair => ?_
  have le : x.time.toNat ≤ y.time.toNat := List.pairwise_iff_forall_sublist.mp (sortRow_sorted row) pair
  refine le.lt_or_eq.imp id fun same => ⟨same, ?_⟩
  have inRow : [x, y].Sublist row := by
    have sameTime := pair.filter (·.time = y.time)
    rw [filter_sortRow, List.filter_eq_self.mpr (by simp [BitVec.eq_of_toNat_eq same])] at sameTime
    exact sameTime.trans List.filter_sublist
  exact List.pairwise_iff_forall_sublist.mp ascending inRow

theorem rowEntries_ascending (p : Params) (m : Image) (r : Nat) :
    (rowEntries p m r).Pairwise fun x y => x.col < y.col :=
  List.pairwise_map.mpr List.pairwise_lt_range

/-- An entry's time is that of the hardware brightness of its cell (R135). -/
theorem time_of_mem_rowEntries {p : Params} (wf : p.wellFormed = true) {m : Image} {r : Nat} {e : Entry}
    (mem : e ∈ rowEntries p m r) : e.time.toNat = timeOf p (hwCell p m r e.col) := by
  obtain ⟨c, -, rfl⟩ := List.mem_map.mp mem
  exact toNat_timeOf wf _

/-- Without light every time is 0, so column order is already the sorted order. -/
theorem sortRow_rowEntries_zeroImage (p : Params) (r : Nat) :
    sortRow (rowEntries p zeroImage r) = (List.range p.cols).map fun c => { time := 0, col := c } := by
  have entries : rowEntries p zeroImage r = (List.range p.cols).map fun c => { time := 0, col := c } := by
    simp only [rowEntries, hwCell_zeroImage, timeOf_zero]
    rfl
  rw [entries, sortRow_of_sorted]
  exact List.pairwise_map.mpr (List.pairwise_of_forall fun _ _ => le_rfl)

theorem buildSchedule_zeroImage (p : Params) : buildSchedule p zeroImage = zeroSched p := by
  simp only [buildSchedule, zeroSched, sortRow_rowEntries_zeroImage, List.map_const', List.length_range]

/-- Settles O25: sorting permutes a row's entries, so columns and times are those it is built from. -/
theorem buildScheduleSortsEveryRow : Obligations.BuildScheduleSortsEveryRow := by
  refine ⟨fun p m wf => ⟨by simp [buildSchedule], fun r hr => ?_⟩, buildSchedule_zeroImage⟩
  rw [schedRow_buildSchedule p m hr]
  refine ⟨?_, fun e mem => ?_, sortRow_sorted_by_column (rowEntries_ascending p m r)⟩
  · simpa using (sortRow_perm (rowEntries p m r)).map Entry.col
  · exact time_of_mem_rowEntries wf ((sortRow_perm _).mem_iff.mp mem)

/-! ### The entries of time 0 (R139 (e)) -/

/-- Every row of a built schedule ascends by time; past the last row there is the empty one. -/
theorem schedRow_buildSchedule_sorted (p : Params) (m : Image) (r : Nat) :
    (schedRow (buildSchedule p m) r).Pairwise fun x y => x.time.toNat ≤ y.time.toNat := by
  rcases Nat.lt_or_ge r p.rows with inside | outside
  · rw [schedRow_buildSchedule p m inside]
    exact sortRow_sorted _
  · rw [schedRow, List.getD_eq_default _ _ (by simpa [buildSchedule] using outside)]
    exact List.Pairwise.nil

/-- In a row sorted by time the entries of time 0 are a part at its front: those due at tick 0. -/
theorem exists_zeroTimes_first {row : RowSchedule}
    (sorted : row.Pairwise fun x y => x.time.toNat ≤ y.time.toNat) :
    ∃ k, (∀ e ∈ row.take k, e.time.toNat = 0) ∧ (∀ e ∈ row.drop k, e.time.toNat ≠ 0) := by
  refine ⟨row.countP fun e => decide (e.time.toNat ≤ 0), fun e mem => ?_, fun e mem => ?_⟩
  · obtain ⟨i, hi, rfl⟩ := List.mem_take_iff_getElem.mp mem
    exact Nat.le_zero.mp ((due_iff_lt_countP 0 row sorted i _).mpr (by omega))
  · obtain ⟨i, hi, rfl⟩ := List.mem_drop_iff_getElem.mp mem
    intro zero
    have := (due_iff_lt_countP 0 row sorted _ (by omega)).mp zero.le
    omega

/-- Settles O26: the times are a monotone quotient, and a sorted row has its zero times first. -/
theorem timeOfProperties : Obligations.TimeOfProperties := fun p =>
  ⟨fun _ => rfl, fun _ _ => timeOf_mono p, timeOf_zero p, timeOf_full p, one_le_timeOf_iff p, timeOf_le p,
    fun m r => exists_zeroTimes_first (schedRow_buildSchedule_sorted p m r)⟩

end Sys2Proof.Machine
end

section
/-! The `TIMER` agent of 41_display.md: the tick's flags and counter in the words of R165, and the count of the
invariant, which never leaves the frame. -/

namespace Sys2Proof.Machine

theorem State.nextCount_toNat (s : State) : s.nextCount.toNat = (s.tcount.toNat + 1) % 2 ^ 32 :=
  BitVec.toNat_add s.tcount 1

theorem State.clearsCount_iff (s : State) :
    s.clearsCount = true ↔ s.nextCount = s.cc1 ∧ s.short1Clear = true := by
  simp only [State.clearsCount, Bool.and_eq_true, beq_iff_eq]

/-- The tick with its comparisons decided on the incremented value (R165). -/
theorem timerTick_eq (s : State) : timerTick s = { s with
    ev0 := s.ev0 || decide (s.nextCount = s.cc0)
    ev1 := s.ev1 || decide (s.nextCount = s.cc1)
    tcount := if s.nextCount = s.cc1 ∧ s.short1Clear = true then 0 else s.nextCount } := by
  simp only [timerTick, s.clearsCount_iff]
  rfl

/-- A constructed display counts below `TPF`, so its increment does not wrap at the counter's width (R61 (e)). -/
theorem State.Inv.nextCount_toNat {s : State} (inv : s.Inv) (on : s.dispInit = true) :
    s.nextCount.toNat = s.tcount.toNat + 1 := by
  have below := (inv.timer on).1
  have fits := Params.tpf_lt inv.paramsOk
  rw [s.nextCount_toNat, Nat.mod_eq_of_lt (by omega)]

theorem State.Inv.nextCount_eq_iff {s : State} (inv : s.Inv) (on : s.dispInit = true) (v : BitVec 32) :
    s.nextCount = v ↔ s.tcount.toNat + 1 = v.toNat := by
  rw [← inv.nextCount_toNat on, BitVec.toNat_inj]

/-- Settles O29: any tick compares the incremented value, and in a constructed display `CC1` is `TPF` and clears
the counter. -/
theorem timerTickCountsAndMatches : Obligations.TimerTickCountsAndMatches := by
  refine ⟨fun s noFault => s.enabled_timer_iff.trans (and_iff_right noFault),
    fun s => ⟨s.nextCount, s.nextCount_toNat, timerTick_eq s⟩, fun s inv on => ?_⟩
  have wraps : s.nextCount = s.cc1 ↔ s.tcount.toNat + 1 = s.params.tpf := by
    rw [inv.nextCount_eq_iff on, (inv.timer on).2]
  rw [timerTick_eq]
  refine ⟨?count, by simp only [wraps], by simp only [inv.nextCount_eq_iff on]⟩
  case count =>
    simp only [wraps, (inv.armed on).1, and_true]
    split
    · rfl
    · exact inv.nextCount_toNat on

end Sys2Proof.Machine
end

section
/-! The `SEQ` agent of 41_display.md phase by phase: what `seqStep` runs in each (R166 to R172), and the return
and the re-invocation of the CHECK phase. -/

namespace Sys2Proof.Machine

/-! ### The phase decides what the step runs -/

theorem seqStep_of_idle {s : State} (idle : s.seqPhase = .idle) : seqStep s = s.interruptEntry := by
  rw [seqStep, idle]

theorem seqStep_of_entry {s : State} (entry : s.seqPhase = .entry) : seqStep s = entryPhase s := by
  rw [seqStep, entry]

theorem seqStep_of_main {s : State} (main : s.seqPhase = .main) : seqStep s = mainPhase s := by
  rw [seqStep, main]

theorem seqStep_of_program {s : State} (program : s.seqPhase = .program) : seqStep s = programPhase s := by
  rw [seqStep, program]

theorem seqStep_of_check {s : State} (check : s.seqPhase = .check) : seqStep s = checkPhase s := by
  rw [seqStep, check]

/-! ### ENTRY and CHECK -/

/-- With both events and the software pend cleared no request is left (R49, R167). -/
theorem irqLine_entryPhase (s : State) : (entryPhase s).irqLine = false := rfl

theorem checkPhase_of_reached {s : State} (reached : s.cc0.toNat ≤ s.tcount.toNat ∧ s.irqLine = false) :
    checkPhase s = s.interruptReinvoke := if_pos reached

theorem checkPhase_of_ahead_or_pending {s : State}
    (stays : s.tcount.toNat < s.cc0.toNat ∨ s.irqLine = true) : checkPhase s = s.interruptReturn := by
  refine if_neg fun ⟨reached, quiet⟩ => ?_
  rcases stays with ahead | pending
  · omega
  · exact absurd pending (by simp [quiet])

/-- Settles O30: the enable is the table's row for `SEQ`, and each clause is the step of one phase. -/
theorem interruptEntryAndReturn : Obligations.InterruptEntryAndReturn := by
  intro s
  refine ⟨fun noFault => ?enabled, seqStep_of_idle, fun entry => ?entry, fun check => ?check⟩
  case enabled =>
    rw [s.enabled_seq_iff, s.take_iff, and_iff_right noFault, or_comm]
    exact or_congr_right' fun running => and_iff_right (not_not.mp running)
  case entry =>
    rw [seqStep_of_entry entry]
    exact ⟨rfl, irqLine_entryPhase s⟩
  case check =>
    rw [seqStep_of_check check]
    exact ⟨checkPhase_of_reached, checkPhase_of_ahead_or_pending⟩

end Sys2Proof.Machine
end

section
/-! The rows of 41_display.md: the row transition (R170), the MAIN phase in one account of both its cases, with a
transition and without (R168, R175, R176), and the deadline of the PROGRAM phase (R171, R177). -/

namespace Sys2Proof.Machine

/-! ### The row transition (R170) -/

@[simp] theorem length_dropRowPin (pins : List Bool) (row : Option Nat) :
    (dropRowPin pins row).length = pins.length := by
  cases row with
  | none => rfl
  | some r => exact List.length_set

/-- Where only the current row's pin can be high, none is left high by driving it low. -/
theorem getD_dropRowPin {pins : List Bool} {row : Option Nat}
    (lone : ∀ r, pins.getD r false = true → row = some r) (r : Nat) :
    (dropRowPin pins row).getD r false = false := by
  have low : row ≠ some r → pins.getD r false = false := fun other =>
    Bool.eq_false_iff.mpr (mt (lone r) other)
  cases row with
  | none => exact low (by simp)
  | some r₀ =>
    by_cases same : r₀ = r
    · subst same
      by_cases inside : r₀ < pins.length <;>
        simp [dropRowPin, List.getD_eq_getElem?_getD, inside]
    · simpa [dropRowPin, List.getD_eq_getElem?_getD, same] using low (by simpa using same)

theorem getD_rowPin_rowTransition {s : State} {d : Nat} (inv : s.Inv) (hd : d < s.params.rows) (r : Nat) :
    (rowTransition d s).rowPin.getD r false = decide (r = d) := by
  have low := getD_dropRowPin inv.loneRow r
  have size := inv.shape.1
  change ((dropRowPin s.rowPin s.curRow).set d true).getD r false = _
  by_cases same : r = d
  · subst same
    simp [List.getD_eq_getElem?_getD, size, hd]
  · rw [List.getD_eq_getElem?_getD, List.getElem?_set_ne (Ne.symm same), ← List.getD_eq_getElem?_getD, low,
      decide_eq_false same]

/-- The schedule a transition leaves active is in order: it is `ACTIVE` or a copy of `PENDING` (R61 (d)). -/
theorem scheduleOk_rowTransition {s : State} (inv : s.Inv) (d : Nat) :
    scheduleOk s.params (rowTransition d s).active = true := by
  change scheduleOk s.params (if d = 0 then s.pending else s.active) = true
  split
  · exact inv.schedules.2
  · exact inv.schedules.1

/-- The columns and the index of a transition, from the closed form of the lighting loop on the whole row. -/
theorem lightColumns_rowTransition {s : State} {d : Nat} (inv : s.Inv) (hd : d < s.params.rows) :
    (rowTransition d s).colOn =
        setColumns true ((schedRow (rowTransition d s).active d).filter fun e => decide (e.time.toNat ≠ 0))
          (List.replicate s.params.cols false) ∧
      (rowTransition d s).stepIdx =
        (schedRow (rowTransition d s).active d).countP fun e => decide (e.time.toNat = 0) := by
  have len := length_of_rowOk (rowOk_schedRow (scheduleOk_rowTransition inv d) hd)
  have loop : ((rowTransition d s).colOn, (rowTransition d s).stepIdx) =
      lightColumns ((schedRow (rowTransition d s).active d).take s.params.cols)
        (List.replicate s.params.cols false) 0 := rfl
  rw [List.take_of_length_le len.le, lightColumns_eq, Nat.zero_add] at loop
  exact Prod.mk.inj loop

/-- A transition turns on exactly the columns of non-zero time, each column standing in one entry. -/
theorem getD_colOn_rowTransition {s : State} {d : Nat} (inv : s.Inv) (hd : d < s.params.rows) {e : Entry}
    (mem : e ∈ schedRow (rowTransition d s).active d) :
    (rowTransition d s).colOn.getD e.col false = decide (e.time.toNat ≠ 0) := by
  have order := rowOk_schedRow (scheduleOk_rowTransition inv d) hd
  have inside : e.col < s.params.cols := col_lt_of_rowOk order mem
  rw [(lightColumns_rowTransition inv hd).1, getD_setColumns _ _ _ _ (by simpa using inside)]
  have lit : e.col ∈ ((schedRow (rowTransition d s).active d).filter
      fun e => decide (e.time.toNat ≠ 0)).map Entry.col ↔ e.time.toNat ≠ 0 := by
    refine ⟨fun col => ?_, fun nonzero =>
      List.mem_map_of_mem (List.mem_filter.mpr ⟨mem, decide_eq_true nonzero⟩)⟩
    obtain ⟨e', mem', same⟩ := List.mem_map.mp col
    obtain ⟨mem', nonzero⟩ := List.mem_filter.mp mem'
    rw [← List.inj_on_of_nodup_map (nodup_of_rowOk order) mem' mem same]
    exact of_decide_eq_true nonzero
  by_cases nonzero : e.time.toNat ≠ 0
  · rw [if_pos (lit.mpr nonzero), decide_eq_true nonzero]
  · rw [if_neg (mt lit.mp nonzero), decide_eq_false nonzero, List.getD_replicate _ inside]

/-- Settles O32: the frame is the definition itself, the pin, the columns and the index are the lemmas above. -/
theorem rowTransitionSelectsTheDerivedRow : Obligations.RowTransitionSelectsTheDerivedRow := fun _ _ inv hd =>
  ⟨rfl, getD_rowPin_rowTransition inv hd, fun _ => getD_colOn_rowTransition inv hd,
    (lightColumns_rowTransition inv hd).2⟩

/-! ### Step 3: the row is current, with or without a transition (R168) -/

theorem stepThree_of_current {s : State} {d : Nat} (current : s.curRow = some d) : stepThree d s = s :=
  if_pos current

theorem stepThree_of_ne {s : State} {d : Nat} (other : s.curRow ≠ some d) :
    stepThree d s = rowTransition d s := if_neg other

theorem curRow_stepThree (d : Nat) (s : State) : (stepThree d s).curRow = some d := by
  unfold stepThree
  split
  · assumption
  · rfl

theorem params_stepThree (d : Nat) (s : State) : (stepThree d s).params = s.params := by
  unfold stepThree
  split <;> rfl

theorem tcount_stepThree (d : Nat) (s : State) : (stepThree d s).tcount = s.tcount := by
  unfold stepThree
  split <;> rfl

/-- Step 3 leaves what step 4 needs: a row, a schedule in order, an index in the row and a pin per column. -/
theorem stepThree_inOrder {s : State} {d : Nat} (inv : s.Inv) (hd : d < s.params.rows) :
    d < (stepThree d s).params.rows ∧
      scheduleOk (stepThree d s).params (stepThree d s).active = true ∧
      (stepThree d s).stepIdx ≤ (stepThree d s).params.cols ∧
      (stepThree d s).colOn.length = (stepThree d s).params.cols := by
  rw [params_stepThree]
  by_cases current : s.curRow = some d
  · rw [stepThree_of_current current]
    exact ⟨hd, inv.schedules.1, inv.stepIdx_le, inv.shape.2⟩
  · obtain ⟨columns, index⟩ := lightColumns_rowTransition inv hd
    rw [stepThree_of_ne current, columns, index]
    refine ⟨hd, scheduleOk_rowTransition inv d, ?_, by simp⟩
    rw [← length_of_rowOk (rowOk_schedRow (scheduleOk_rowTransition inv d) hd)]
    exact List.countP_le_length

/-- An entry is fresh for the MAIN phase in row `d` where a transition starts the row, or where the entry was not
past before: the premise of R176. -/
def State.Fresh (s : State) (d i : Nat) : Prop := s.curRow ≠ some d ∨ s.stepIdx ≤ i

/-- A fresh entry that is past after step 3 is one a transition never lit: its time is 0 and its column off. -/
theorem stepThree_past {s : State} {d i : Nat} (inv : s.Inv) (hd : d < s.params.rows) (fresh : s.Fresh d i)
    (hi : i < (schedRow (stepThree d s).active d).length) (past : i < (stepThree d s).stepIdx) :
    (schedRow (stepThree d s).active d)[i].time.toNat = 0 ∧
      (stepThree d s).colOn.getD (schedRow (stepThree d s).active d)[i].col false = false := by
  by_cases current : s.curRow = some d
  · have notPast : s.stepIdx ≤ i := fresh.resolve_left (not_not_intro current)
    rw [stepThree_of_current current] at past
    omega
  · simp only [stepThree_of_ne current] at hi past ⊢
    have order := rowOk_schedRow (scheduleOk_rowTransition inv d) hd
    have sorted := ((rowOk_iff _ _).mp order).2.1
    have zero : (schedRow (rowTransition d s).active d)[i].time.toNat = 0 := by
      rw [(lightColumns_rowTransition inv hd).2] at past
      exact Nat.le_zero.mp ((due_iff_lt_countP 0 _ sorted i hi).mpr (by simpa only [Nat.le_zero] using past))
    refine ⟨zero, ?_⟩
    rw [getD_colOn_rowTransition inv hd (List.getElem_mem hi), zero]
    rfl

/-! ### The MAIN phase (R168, R175, R176) -/

/-- A MAIN phase between its steps 3 and 4: the row of the captured counter value is current. -/
def State.rowSelected (s : State) : State := stepThree (derivedRow s.params s.tcount.toNat) s

/-- How many entries of the selected row are due at the captured counter value. -/
def State.dueCount (s : State) : Nat :=
  s.rowSelected.currentSchedule.countP fun e => decide (e.time.toNat ≤ s.tcount.toNat % s.params.tpr)

theorem currentSchedule_rowSelected (s : State) :
    s.rowSelected.currentSchedule = schedRow s.rowSelected.active (derivedRow s.params s.tcount.toNat) := by
  rw [State.currentSchedule, State.count, State.rowSelected, params_stepThree, tcount_stepThree]

section MainPhase

variable {s : State} (inv : s.Inv) (main : s.seqPhase = .main)
include inv main

theorem State.Inv.derivedRow_lt_of_main : derivedRow s.params s.tcount.toNat < s.params.rows :=
  inv.derivedRow_lt (inv.phase (by rw [main]; nofun))

/-- In a state of the invariant the MAIN phase raises no fault: it is step 3, step 4 and the move to PROGRAM. -/
theorem seqStep_main_eq : seqStep s =
    { stepFour (derivedRow s.params s.tcount.toNat) (s.tcount.toNat % s.params.tpr) s.rowSelected with
      seqPhase := .program } := by
  rw [seqStep_of_main main, mainPhase_of_lt (inv.derivedRow_lt_of_main main), rowLocal_eq_mod]
  rfl

theorem params_seqStep_main : (seqStep s).params = s.params := by
  rw [seqStep_main_eq inv main]
  exact params_stepThree _ s

theorem curRow_seqStep_main : (seqStep s).curRow = some (derivedRow s.params s.tcount.toNat) := by
  rw [seqStep_main_eq inv main]
  exact curRow_stepThree _ s

theorem active_seqStep_main : (seqStep s).active = s.rowSelected.active := by
  rw [seqStep_main_eq inv main]
  rfl

theorem currentSchedule_seqStep_main : (seqStep s).currentSchedule = s.rowSelected.currentSchedule := by
  rw [seqStep_main_eq inv main]
  rfl

theorem rowOk_rowSelected : rowOk s.params s.rowSelected.currentSchedule = true := by
  obtain ⟨hd, order, -, -⟩ := stepThree_inOrder inv (inv.derivedRow_lt_of_main main)
  have selected := rowOk_schedRow order hd
  rw [params_stepThree] at selected
  rwa [currentSchedule_rowSelected]

/-- The due entries are the first `dueCount` of the row, which is sorted by time. -/
theorem due_iff_lt_dueCount {i : Nat} (hi : i < s.rowSelected.currentSchedule.length) :
    s.rowSelected.currentSchedule[i].time.toNat ≤ s.tcount.toNat % s.params.tpr ↔ i < s.dueCount :=
  due_iff_lt_countP _ _ ((rowOk_iff _ _).mp (rowOk_rowSelected inv main)).2.1 i hi

/-- Step 4 of the MAIN phase on the selected row: the index rises to the count of due entries, and the entries it
passes are turned off. -/
theorem seqStep_main_spec : (seqStep s).stepIdx = max s.rowSelected.stepIdx s.dueCount ∧
    ∀ i (hi : i < s.rowSelected.currentSchedule.length),
      (seqStep s).colOn.getD s.rowSelected.currentSchedule[i].col false =
        if s.rowSelected.stepIdx ≤ i ∧ i < s.dueCount then false
        else s.rowSelected.colOn.getD s.rowSelected.currentSchedule[i].col false := by
  obtain ⟨hd, order, inRow, shape⟩ := stepThree_inOrder inv (inv.derivedRow_lt_of_main main)
  rw [seqStep_main_eq inv main, State.dueCount]
  simp only [currentSchedule_rowSelected]
  exact stepFour_spec hd order inRow shape (s.tcount.toNat % s.params.tpr)

/-- The entries not past after the MAIN phase are not yet due (R168). -/
theorem not_due_of_not_past {i : Nat} (hi : i < s.rowSelected.currentSchedule.length)
    (notPast : (seqStep s).stepIdx ≤ i) :
    s.tcount.toNat % s.params.tpr < s.rowSelected.currentSchedule[i].time.toNat := by
  have index := (seqStep_main_spec inv main).1
  have due := due_iff_lt_dueCount inv main hi
  omega

/-- A fresh entry that the MAIN phase leaves past is due, and its column was turned off or never on. -/
theorem due_and_off_of_past {i : Nat} (hi : i < s.rowSelected.currentSchedule.length)
    (fresh : s.Fresh (derivedRow s.params s.tcount.toNat) i) (past : i < (seqStep s).stepIdx) :
    s.rowSelected.currentSchedule[i].time.toNat ≤ s.tcount.toNat % s.params.tpr ∧
      (seqStep s).colOn.getD s.rowSelected.currentSchedule[i].col false = false := by
  obtain ⟨index, columns⟩ := seqStep_main_spec inv main
  have due := due_iff_lt_dueCount inv main hi
  rw [columns i hi]
  by_cases before : i < s.rowSelected.stepIdx
  · simp only [currentSchedule_rowSelected] at hi ⊢
    obtain ⟨zero, off⟩ := stepThree_past inv (inv.derivedRow_lt_of_main main) fresh hi before
    rw [if_neg (by omega)]
    exact ⟨zero.trans_le (Nat.zero_le _), off⟩
  · rw [if_pos (by omega)]
    exact ⟨by omega, rfl⟩

/-- A fresh entry is past after the MAIN phase exactly when it is due (R168, R175). -/
theorem past_iff_due {i : Nat} (hi : i < s.rowSelected.currentSchedule.length)
    (fresh : s.Fresh (derivedRow s.params s.tcount.toNat) i) :
    i < (seqStep s).stepIdx ↔
      s.rowSelected.currentSchedule[i].time.toNat ≤ s.tcount.toNat % s.params.tpr := by
  refine ⟨fun past => (due_and_off_of_past inv main hi fresh past).1, fun due => ?_⟩
  by_contra notPast
  have := not_due_of_not_past inv main hi (Nat.le_of_not_lt notPast)
  omega

end MainPhase

/-- Settles O35: whether a fresh entry is past depends on its time alone. -/
theorem equalTimesTurnOffTogether : Obligations.EqualTimesTurnOffTogether := by
  intro s inv main
  simp only [currentSchedule_seqStep_main inv main]
  intro i j hi hj sameTime fresh
  have freshI : s.Fresh (derivedRow s.params s.tcount.toNat) i := fresh.imp_right And.left
  have freshJ : s.Fresh (derivedRow s.params s.tcount.toNat) j := fresh.imp_right And.right
  have together : i < (seqStep s).stepIdx ↔ j < (seqStep s).stepIdx := by
    rw [past_iff_due inv main hi freshI, past_iff_due inv main hj freshJ, sameTime]
  exact ⟨together, fun past => ⟨(due_and_off_of_past inv main hi freshI past).2,
    (due_and_off_of_past inv main hj freshJ (together.mp past)).2⟩⟩

/-! ### The PROGRAM phase (R171, R177) -/

/-- The deadline is the end of the row where no entry is left, and else the due time of the entry at `STEP_IDX`. -/
theorem nextDeadline_cases {s : State} {r v : Nat} (deadline : nextDeadline r s = some v) :
    (s.params.cols ≤ s.stepIdx ∧ v = r * s.params.tpr + s.params.tpr) ∨
      ∃ e, (schedRow s.active r)[s.stepIdx]? = some e ∧ v = r * s.params.tpr + e.time.toNat := by
  unfold nextDeadline at deadline
  split at deadline
  · obtain ⟨e, entry, value⟩ := Option.map_eq_some_iff.mp deadline
    exact .inr ⟨e, entry, value.symm⟩
  · exact .inl ⟨by omega, (Option.some.inj deadline).symm⟩

theorem nextDeadline_le {s : State} {r v : Nat} (inv : s.Inv) (hr : r < s.params.rows)
    (deadline : nextDeadline r s = some v) : v ≤ (r + 1) * s.params.tpr := by
  rw [Nat.succ_mul]
  rcases nextDeadline_cases deadline with ⟨-, rfl⟩ | ⟨e, entry, rfl⟩
  · exact le_rfl
  · have order := rowOk_schedRow inv.schedules.1 hr
    exact Nat.add_le_add_left (((rowOk_iff _ _).mp order).2.2 e (List.mem_of_getElem? entry)) _

/-- The PROGRAM phase writes the deadline to `CC0`, where it fits because the frame does (R10). -/
theorem exists_deadline_cc0 {s : State} {r : Nat} (inv : s.Inv) (program : s.seqPhase = .program)
    (row : s.curRow = some r) :
    ∃ v, nextDeadline r s = some v ∧ (seqStep s).cc0.toNat = v ∧ v ≤ (r + 1) * s.params.tpr := by
  have hr := inv.rowLegal r row
  obtain ⟨v, deadline⟩ := exists_nextDeadline inv row
  have bound := nextDeadline_le inv hr deadline
  have fits : v < 2 ^ 32 := bound.trans_lt ((s.params.row_end_le hr).trans_lt (Params.tpf_lt inv.paramsOk))
  refine ⟨v, deadline, ?_, bound⟩
  rw [seqStep_of_program program, programPhase_of_deadline row deadline]
  exact (BitVec.toNat_ofNat v 32).trans (Nat.mod_eq_of_lt fits)

/-- Settles O37: the index the MAIN phase leaves points at an entry not yet due, or at the end of the row, and the
captured value is the start of the row and less than `TPR` more. -/
theorem compareValueIsAboveTheCapture : Obligations.CompareValueIsAboveTheCapture := by
  intro s u r inv main uInv program sameParams sameRow sameIdx sameActive row
  have params : u.params = s.params := sameParams.trans (params_seqStep_main inv main)
  have derived : r = derivedRow s.params s.tcount.toNat :=
    Option.some.inj (row.symm.trans (sameRow.trans (curRow_seqStep_main inv main)))
  have rowSchedule : schedRow u.active r = s.rowSelected.currentSchedule := by
    rw [sameActive, active_seqStep_main inv main, derived, currentSchedule_rowSelected]
  have hr : r < s.params.rows := params ▸ uInv.rowLegal r row
  obtain ⟨v, deadline, cc0, bound⟩ := exists_deadline_cc0 uInv program row
  rw [cc0]
  rw [params] at bound
  refine ⟨?above, bound, s.params.row_end_le hr⟩
  case above =>
    have capture : r * s.params.tpr + s.tcount.toNat % s.params.tpr = s.tcount.toNat := by
      rw [derived, derivedRow, Nat.mul_comm, Nat.div_add_mod]
    rcases nextDeadline_cases deadline with ⟨-, rfl⟩ | ⟨e, entry, rfl⟩
    · have := Nat.mod_lt s.tcount.toNat (Params.tpr_pos inv.paramsOk)
      rw [params]
      omega
    · rw [rowSchedule, sameIdx] at entry
      obtain ⟨inRow, rfl⟩ := List.getElem?_eq_some_iff.mp entry
      have := not_due_of_not_past inv main inRow le_rfl
      rw [params]
      omega

end Sys2Proof.Machine
end

section
/-! `SHOW` (R162), and the display's ownership (R180): no step but a reset takes back what the construction of the
display, the first pass or `BTN_NEW` has set. -/

namespace Sys2Proof.Machine

/-! ### SHOW (R162) -/

theorem exec_showImage_of_on {s : State} (on : s.dispInit = true) : exec .showImage s =
    .next ({ s with pending := buildSchedule s.params s.stage }.complete 0) := if_pos on

theorem exec_showImage_of_off {s : State} (off : s.dispInit = false) :
    exec .showImage s = .next (s.cmdError .notInitialised) := if_neg (Bool.eq_false_iff.mp off)

/-- Settles O28: the two outcomes of the command, by whether the display has been constructed. -/
theorem showPublishesTheStagingImage : Obligations.ShowPublishesTheStagingImage :=
  ⟨decode_of_spells (o := .showImage) rfl, fun _ => ⟨exec_showImage_of_on, exec_showImage_of_off⟩⟩

/-! ### Nothing is released (R56, R180) -/

/-- Whatever of the display, its timer, its interrupt enables and the sampler is on in `s` is on in `t`. -/
structure State.Retains (s t : State) : Prop where
  dispInit : s.dispInit = true → t.dispInit = true
  trun : s.trun = true → t.trun = true
  inten0 : s.inten0 = true → t.inten0 = true
  inten1 : s.inten1 = true → t.inten1 = true
  samplerRun : s.samplerRun = true → t.samplerRun = true

theorem State.Retains.trans {s t u : State} (first : s.Retains t) (second : t.Retains u) : s.Retains u where
  dispInit := second.dispInit ∘ first.dispInit
  trun := second.trun ∘ first.trun
  inten0 := second.inten0 ∘ first.inten0
  inten1 := second.inten1 ∘ first.inten1
  samplerRun := second.samplerRun ∘ first.samplerRun

/-- A step that leaves all five bits as they are. -/
theorem State.Retains.of_eq {s t : State} (dispInit : t.dispInit = s.dispInit := by rfl)
    (trun : t.trun = s.trun := by rfl) (inten0 : t.inten0 = s.inten0 := by rfl)
    (inten1 : t.inten1 = s.inten1 := by rfl) (samplerRun : t.samplerRun = s.samplerRun := by rfl) :
    s.Retains t where
  dispInit := dispInit.trans
  trun := trun.trans
  inten0 := inten0.trans
  inten1 := inten1.trans
  samplerRun := samplerRun.trans

theorem State.retains_dropChoice (s : State) : s.Retains s.dropChoice :=
  .of_eq (by simp) (by simp) (by simp) (by simp) (by simp)

theorem State.retains_settle (s : State) : s.Retains s.settle := by
  rcases s.settle_cases with same | ⟨-, -, broken⟩
  · rw [same]
    exact .of_eq
  · rw [broken]
    exact .of_eq

theorem envStep_retains (k : ButtonId) (v : Bool) (s : State) : s.Retains (envStep k v s) := by
  cases k <;> exact .of_eq

theorem stepThree_retains (d : Nat) (s : State) : s.Retains (stepThree d s) := by
  unfold stepThree
  split <;> exact .of_eq

theorem mainPhase_retains (s : State) : s.Retains (mainPhase s) := by
  unfold mainPhase
  dsimp only
  split
  · exact .of_eq
  · exact (stepThree_retains _ s).trans .of_eq

/-- The PROGRAM phase starts the timer and never stops it (R171). -/
theorem programPhase_retains (s : State) : s.Retains (programPhase s) := by
  unfold programPhase
  split
  · exact { dispInit := id, trun := fun _ => rfl, inten0 := id, inten1 := id, samplerRun := id }
  · exact .of_eq

theorem checkPhase_retains (s : State) : s.Retains (checkPhase s) := by
  unfold checkPhase
  split <;> exact .of_eq

theorem seqStep_retains (s : State) : s.Retains (seqStep s) := by
  cases phase : s.seqPhase with
  | idle => rw [seqStep_of_idle phase]; exact .of_eq
  | entry => rw [seqStep_of_entry phase]; exact .of_eq
  | main => rw [seqStep_of_main phase]; exact mainPhase_retains s
  | program => rw [seqStep_of_program phase]; exact programPhase_retains s
  | check => rw [seqStep_of_check phase]; exact checkPhase_retains s

/-- `DISP_NEW` constructs only a display that was not constructed before, whose timer does not run yet, so its
write of 0 to `TRUN` stops nothing (R161). -/
theorem constructDisplay_retains {s : State} (stopped : s.trun = false) : s.Retains s.constructDisplay where
  dispInit _ := rfl
  trun running := absurd running (by simp [stopped])
  inten0 _ := rfl
  inten1 _ := rfl
  samplerRun := id

/-- A command retains what is on: `DISP_NEW` alone writes a 0 to one of the five bits, `TRUN`. -/
theorem exec_retains {i : Instr} {s t : State} (stopped : s.dispInit = false → s.trun = false)
    (done : exec i s = .next t) : s.Retains t := by
  rcases exec_cases done with ⟨_, _, rfl⟩ | ⟨_, rfl⟩ | ⟨_, rfl⟩ | ⟨_, _, rfl⟩ | ⟨_, off, rfl⟩ | ⟨_, _, rfl⟩ |
    ⟨_, _, rfl⟩ | ⟨_, _, rfl⟩
  · exact .of_eq
  · exact .of_eq
  · exact .of_eq
  · exact .of_eq
  · exact (constructDisplay_retains (stopped off)).trans .of_eq
  · exact { dispInit := id, trun := id, inten0 := id, inten1 := id, samplerRun := fun _ => rfl }
  · exact .of_eq
  · exact .of_eq

theorem hostStep_retains {op : HostOp} {s t : State} (stopped : s.dispInit = false → s.trun = false)
    (done : hostStep op s = .next t) : s.Retains t := by
  rcases hostStep_cases done with ⟨_, _, _, rfl⟩ | ⟨_, _, _, rfl | rfl | ⟨_, _, ran⟩⟩
  · exact .of_eq
  · exact .of_eq
  · exact .of_eq
  · exact exec_retains stopped ran

theorem AgentStep.retains {s u : State} (stopped : s.dispInit = false → s.trun = false)
    (stepped : AgentStep s u) : s.Retains u := by
  refine s.retains_dropChoice.trans ?_
  cases stepped with
  | timer _ _ taken => rw [taken]; exact .of_eq
  | seq _ _ taken => rw [taken]; exact seqStep_retains _
  | seqFirst _ _ taken =>
    rw [taken]
    exact (State.Retains.of_eq (s := s.dropChoice)).trans (seqStep_retains _)
  | sampler _ _ taken => rw [taken]; exact .of_eq
  | env k v _ _ taken => rw [taken]; exact envStep_retains k v _
  | host op _ _ taken => exact hostStep_retains (by simpa using stopped) taken
  | pass taken => rw [taken]; exact .of_eq

/-- Settles O45: every agent's step, and the check after it, retains what is on; the invariant is needed for
`DISP_NEW` alone, whose timer it says is stopped. -/
theorem displayIsNeverReleased : Obligations.DisplayIsNeverReleased := by
  intro s t inv stepped agent
  rcases (step_cases stepped).2 with ⟨rawA, rawB, reset, -⟩ | ⟨-, -, u, agentStep, rfl⟩
  · exact absurd (by rw [reset]; rfl) agent
  · have stopped : s.dispInit = false → s.trun = false := fun off =>
      have ⟨_, _, _, trun⟩ := inv.unarmed off
      trun
    have kept := (agentStep.retains stopped).trans u.retains_settle
    exact ⟨kept.dispInit, kept.trun, kept.inten0, kept.inten1, kept.samplerRun⟩

end Sys2Proof.Machine
end

section
/-! The filter of 42_button.md: `sample_update` case by case (R214), the steps that run it and that write a raw
input (R215, R216), and its hysteresis along consecutive samples and along runs (R217). -/

namespace Sys2Proof.Machine

/-! ### The filter (R214) -/

theorem nextSigma_eq (raw : Bool) (sigma : Nat) :
    nextSigma raw sigma = if raw = true then min (sigma + 1) 12 else max (sigma - 1) 0 := by
  rw [Nat.max_zero]
  rfl

section Filter

variable {b : Button}

theorem sampleUpdate_of_press (press : 8 < nextSigma b.raw b.sigma ∧ b.latched = false) :
    sampleUpdate b = ⟨b.raw, nextSigma b.raw b.sigma, true, b.pressCount + 1⟩ := if_pos press

theorem sampleUpdate_of_release (release : nextSigma b.raw b.sigma < 2 ∧ b.latched = true) :
    sampleUpdate b = ⟨b.raw, nextSigma b.raw b.sigma, false, b.pressCount⟩ := by
  have noPress : ¬(8 < nextSigma b.raw b.sigma ∧ b.latched = false) := fun press => by omega
  exact (if_neg noPress).trans (if_pos release)

theorem sampleUpdate_of_band (noPress : ¬(8 < nextSigma b.raw b.sigma ∧ b.latched = false))
    (noRelease : ¬(nextSigma b.raw b.sigma < 2 ∧ b.latched = true)) :
    sampleUpdate b = { b with sigma := nextSigma b.raw b.sigma } := (if_neg noPress).trans (if_neg noRelease)

/-- The accumulator moves alike in all three cases. -/
@[simp] theorem sampleUpdate_sigma (b : Button) : (sampleUpdate b).sigma = nextSigma b.raw b.sigma := by
  by_cases press : 8 < nextSigma b.raw b.sigma ∧ b.latched = false
  · rw [sampleUpdate_of_press press]
  · by_cases release : nextSigma b.raw b.sigma < 2 ∧ b.latched = true
    · rw [sampleUpdate_of_release release]
    · rw [sampleUpdate_of_band press release]

end Filter

/-- Settles O49: the two steps are their definitions, and the three cases of the filter are its equations. -/
theorem samplerAndInputSteps : Obligations.SamplerAndInputSteps := fun _ =>
  ⟨rfl, fun _ => ⟨rfl, rfl⟩, fun b => ⟨_, nextSigma_eq b.raw b.sigma, sampleUpdate_of_press,
    sampleUpdate_of_release, fun ⟨noPress, noRelease⟩ => sampleUpdate_of_band noPress noRelease⟩⟩

/-! ### Consecutive samples (R217 (b), (c)) -/

theorem sampleUpdate_iterate_pressed (n : Nat) (x : Word) : sampleUpdate^[n] ⟨true, 0, false, x⟩ =
    ⟨true, min n 12, decide (9 ≤ n), if 9 ≤ n then x + 1 else x⟩ := by
  induction n with
  | zero => rfl
  | succ n ih =>
    have sigma : nextSigma true (min n 12) = min (n + 1) 12 := by
      rw [nextSigma_eq, if_pos rfl]
      omega
    rw [Function.iterate_succ_apply', ih]
    rcases lt_trichotomy n 8 with below | rfl | above
    · have early : ¬9 ≤ n ∧ ¬9 ≤ n + 1 := by omega
      rw [sampleUpdate_of_band] <;> simp [sigma, early]
      omega
    · rfl
    · have late : 9 ≤ n ∧ 9 ≤ n + 1 := by omega
      rw [sampleUpdate_of_band] <;> simp [sigma, late]
      omega

theorem sampleUpdate_iterate_released {sig n : Nat} (x : Word) (latches : 9 ≤ sig) (before : n < sig) :
    sampleUpdate^[n] ⟨false, sig, true, x⟩ = ⟨false, sig - n, decide (n < sig - 1), x⟩ := by
  induction n with
  | zero => simp; omega
  | succ n ih =>
    have held : decide (n < sig - 1) = true := decide_eq_true (by omega)
    have sigma : nextSigma false (sig - n) = sig - (n + 1) := rfl
    rw [Function.iterate_succ_apply', ih (by omega), held]
    by_cases last : n + 1 = sig - 1
    · rw [sampleUpdate_of_release] <;> simp [sigma] <;> omega
    · rw [sampleUpdate_of_band] <;> simp [sigma] <;> omega

/-! ### The hysteresis band along runs (R217 (a)) -/

/-- A latched button has not fallen below the release threshold, nor has an unlatched one risen above the press
threshold (R217 (a)). -/
def Button.InBand (b : Button) : Prop := if b.latched then 2 ≤ b.sigma else b.sigma ≤ 8

theorem resetButton_inBand (raw : Bool) : (resetButton raw).InBand := Nat.zero_le 8

/-- One sample brings any button into its band, since a sigma past a threshold turns the latch over. -/
theorem sampleUpdate_inBand (b : Button) : (sampleUpdate b).InBand := by
  by_cases press : 8 < nextSigma b.raw b.sigma ∧ b.latched = false
  · rw [sampleUpdate_of_press press]
    exact Nat.le_trans (by decide) press.1
  · by_cases release : nextSigma b.raw b.sigma < 2 ∧ b.latched = true
    · rw [sampleUpdate_of_release release]
      exact Nat.le_trans (Nat.le_of_lt release.1) (by decide)
    · rw [sampleUpdate_of_band press release, Button.InBand]
      cases latch : b.latched <;> simp [latch] at press release ⊢ <;> omega

theorem mainPhase_button (s : State) (k : ButtonId) : (mainPhase s).button k = s.button k := by
  unfold mainPhase stepThree
  dsimp only
  split
  · rfl
  · split <;> rfl

theorem programPhase_button (s : State) (k : ButtonId) : (programPhase s).button k = s.button k := by
  unfold programPhase
  split <;> rfl

theorem checkPhase_button (s : State) (k : ButtonId) : (checkPhase s).button k = s.button k := by
  unfold checkPhase
  split <;> rfl

@[simp] theorem seqStep_button (s : State) (k : ButtonId) : (seqStep s).button k = s.button k := by
  cases phase : s.seqPhase with
  | idle => rw [seqStep_of_idle phase]; rfl
  | entry => rw [seqStep_of_entry phase]; rfl
  | main => rw [seqStep_of_main phase]; exact mainPhase_button s k
  | program => rw [seqStep_of_program phase]; exact programPhase_button s k
  | check => rw [seqStep_of_check phase]; exact checkPhase_button s k

/-- No command writes a button: `BTN_NEW` and `BTN_WAS_PRESSED` write handles (R219). -/
theorem exec_button {i : Instr} {s t : State} (done : exec i s = .next t) (k : ButtonId) :
    t.button k = s.button k := by
  rcases exec_cases done with ⟨_, _, rfl⟩ | ⟨_, rfl⟩ | ⟨_, rfl⟩ | ⟨_, _, rfl⟩ | ⟨_, _, rfl⟩ | ⟨_, _, rfl⟩ |
    ⟨_, _, rfl⟩ | ⟨_, _, rfl⟩ <;> rfl

theorem hostStep_button {op : HostOp} {s t : State} (done : hostStep op s = .next t) (k : ButtonId) :
    t.button k = s.button k := by
  rcases hostStep_cases done with ⟨_, _, _, rfl⟩ | ⟨_, _, _, rfl | rfl | ⟨_, _, ran⟩⟩
  · rfl
  · rfl
  · rfl
  · exact exec_button ran k

@[simp] theorem State.dropChoice_button (s : State) (k : ButtonId) : s.dropChoice.button k = s.button k := by
  cases k <;> simp

@[simp] theorem State.settle_button (s : State) (k : ButtonId) : s.settle.button k = s.button k := by
  rcases s.settle_cases with same | ⟨-, -, broken⟩
  · rw [same]
  · rw [broken]
    rfl

@[simp] theorem samplerStep_button (s : State) (k : ButtonId) :
    (samplerStep s).button k = sampleUpdate (s.button k) := by
  cases k <;> rfl

/-- An input step writes the raw input of its own button, and rewrites that of the other as it is (R216). -/
theorem envStep_button (k : ButtonId) (v : Bool) (s : State) (j : ButtonId) :
    (envStep k v s).button j = { s.button j with raw := if j = k then v else (s.button j).raw } := by
  cases k <;> cases j <;> rfl

/-- An agent's step samples a button or writes at most its raw input (R52 to R55). -/
theorem AgentStep.button_cases {s u : State} (stepped : AgentStep s u) (k : ButtonId) :
    u.button k = sampleUpdate (s.button k) ∨ ∃ v, u.button k = { s.button k with raw := v } := by
  have unwritten (same : u.button k = s.dropChoice.button k) :
      u.button k = sampleUpdate (s.button k) ∨ ∃ v, u.button k = { s.button k with raw := v } :=
    .inr ⟨(s.button k).raw, same.trans (s.dropChoice_button k)⟩
  cases stepped with
  | timer _ _ taken => exact unwritten (by rw [taken]; rfl)
  | seq _ _ taken => exact unwritten (by rw [taken, seqStep_button])
  | seqFirst _ _ taken => exact unwritten (by rw [taken, seqStep_button]; rfl)
  | sampler _ _ taken => exact .inl (by rw [taken, samplerStep_button, s.dropChoice_button])
  | env j v _ _ taken => exact .inr ⟨_, by rw [taken, envStep_button, s.dropChoice_button]⟩
  | host op _ _ taken => exact unwritten (hostStep_button taken k)
  | pass taken => exact unwritten (by rw [taken])

/-- What a step of the machine makes of a button: a reset button, a sampled one, or the same but for its raw
input. -/
theorem step_button_cases {s t : State} (stepped : step s = .next t) (k : ButtonId) :
    (s.nextChoice.agent = none ∧ ∃ raw, t.button k = resetButton raw) ∨
      t.button k = sampleUpdate (s.button k) ∨ ∃ v, t.button k = { s.button k with raw := v } := by
  rcases (step_cases stepped).2 with ⟨rawA, rawB, reset, rfl⟩ | ⟨-, -, u, agentStep, rfl⟩
  · refine .inl ⟨by rw [reset]; rfl, ?_⟩
    rw [State.settle_button]
    cases k
    · exact ⟨rawA, rfl⟩
    · exact ⟨rawB, rfl⟩
  · rw [State.settle_button]
    exact .inr (agentStep.button_cases k)

/-- R217 (a): a reset starts a button in its band, a sample brings it there, and the raw input is no part of it. -/
theorem Reachable.button_inBand {s : State} (reached : Reachable s) (k : ButtonId) : (s.button k).InBand := by
  induction reached with
  | reset p rawA rawB agenda draws _ =>
    cases k
    · exact resetButton_inBand rawA
    · exact resetButton_inBand rawB
  | step s t _ stepped ih =>
    rcases step_button_cases stepped k with ⟨-, raw, reset⟩ | sampled | ⟨v, written⟩
    · rw [reset]
      exact resetButton_inBand raw
    · rw [sampled]
      exact sampleUpdate_inBand _
    · rw [written]
      exact ih

/-- Settles O50: (a) is the invariant above, (b) and (c) the two inductions, (d) the band's case of the filter,
and (e) is (b) from its second sample on, which (f) says is the button that (e) starts from. -/
theorem hysteresisOfTheFilter : Obligations.HysteresisOfTheFilter := by
  have oneSample (x : Word) : sampleUpdate ⟨true, 0, false, x⟩ = ⟨true, 1, false, x⟩ := rfl
  refine ⟨fun s k reached => reached.button_inBand k, sampleUpdate_iterate_pressed,
    fun sig n x latches _ before => sampleUpdate_iterate_released x latches before,
    fun b => ⟨fun latched high => ?latched, fun unlatched low => ?unlatched⟩, fun n x few => ?again, oneSample⟩
  case latched =>
    rw [sampleUpdate_sigma] at high ⊢
    exact sampleUpdate_of_band (by simp [latched]) (by omega)
  case unlatched =>
    rw [sampleUpdate_sigma] at low ⊢
    exact sampleUpdate_of_band (by omega) (by simp [unlatched])
  case again =>
    have ninth : 9 ≤ n + 1 ↔ n = 8 := by omega
    rw [← oneSample, ← Function.iterate_succ_apply, sampleUpdate_iterate_pressed]
    simp only [ninth, Nat.min_eq_left (show n + 1 ≤ 12 by omega)]

end Sys2Proof.Machine
end

section
/-! The button commands of 42_button.md (R211 to R213): the errors their operands raise, and what each makes of a
handle in range. -/

namespace Sys2Proof.Machine

/-! ### The handles -/

theorem State.setHandle_getElem (s : State) (h j : Fin 4) (x : Handle) :
    (s.setHandle h x).handles[j] = if j.val = h.val then x else s.handles[j] := by
  simp [State.setHandle, Vector.getElem_set, eq_comm]

theorem State.setHandle_self (s : State) (h : Fin 4) : s.setHandle h (s.handle h) = s := by
  simp [State.setHandle, State.handle]

/-! ### Operands out of range (R110) -/

theorem exec_button_of_ge {h : Nibble} (outside : 4 ≤ h.toNat) (k : Nibble) (s : State) :
    exec (.btnNew h k) s = .next (s.cmdError .operandRange) ∧
      exec (.btnWasPressed h) s = .next (s.cmdError .operandRange) ∧
      exec (.btnIsPressed h) s = .next (s.cmdError .operandRange) := by
  change execBtnNew h k s = _ ∧ execBtnWasPressed h s = _ ∧ execBtnIsPressed h s = _
  unfold execBtnNew execBtnWasPressed execBtnIsPressed
  rw [handleIndex_of_ge outside]
  exact ⟨rfl, rfl, rfl⟩

theorem buttonIndex_of_ge {k : Nibble} (outside : 2 ≤ k.toNat) : buttonIndex k = none := by
  rw [buttonIndex_eq, if_neg (by omega), if_neg (by omega)]

theorem exec_btnNew_of_button_ge (h : Nibble) {k : Nibble} (outside : 2 ≤ k.toNat) (s : State) :
    exec (.btnNew h k) s = .next (s.cmdError .operandRange) := by
  change execBtnNew h k s = _
  rw [execBtnNew, buttonIndex_of_ge outside]
  cases handleIndex h <;> rfl

/-! ### A handle in range -/

section HandleInRange

variable {h : Nibble} {s : State} (inside : h.toNat < 4)
include inside

theorem exec_btnNew_of_lt {k : Nibble} {btn : ButtonId} (button : buttonIndex k = some btn) :
    exec (.btnNew h k) s = .next ({ s.setHandle ⟨h.toNat, inside⟩
      { valid := true, btn := btn, last := (s.button btn).pressCount } with samplerRun := true }.complete 0) := by
  change execBtnNew h k s = _
  rw [execBtnNew, handleIndex_of_lt inside, button]

theorem exec_button_of_invalid (invalid : (s.handle ⟨h.toNat, inside⟩).valid = false) :
    exec (.btnWasPressed h) s = .next (s.cmdError .notInitialised) ∧
      exec (.btnIsPressed h) s = .next (s.cmdError .notInitialised) := by
  change execBtnWasPressed h s = _ ∧ execBtnIsPressed h s = _
  rw [execBtnWasPressed, execBtnIsPressed, handleIndex_of_lt inside]
  exact ⟨if_pos invalid, if_pos invalid⟩

/-- Both answers in one: where the counter has not advanced, the snapshot written is the one that stands (R212). -/
theorem exec_btnWasPressed_of_valid {x : Handle} (named : s.handle ⟨h.toNat, inside⟩ = x)
    (valid : x.valid = true) :
    exec (.btnWasPressed h) s =
      .next ((s.setHandle ⟨h.toNat, inside⟩ { x with last := (s.button x.btn).pressCount }).complete
        (if (s.button x.btn).pressCount ≠ x.last then 1 else 0)) := by
  change execBtnWasPressed h s = _
  rw [execBtnWasPressed, handleIndex_of_lt inside]
  dsimp only
  rw [named, if_neg (by simp [valid])]
  by_cases advanced : (s.button x.btn).pressCount ≠ x.last
  · rw [if_pos advanced, if_pos advanced]
  · have kept : { x with last := (s.button x.btn).pressCount } = s.handle ⟨h.toNat, inside⟩ := by
      rw [not_not.mp advanced, named]
    rw [if_neg advanced, if_neg advanced, kept, s.setHandle_self]

theorem exec_btnIsPressed_of_valid (valid : (s.handle ⟨h.toNat, inside⟩).valid = true) :
    exec (.btnIsPressed h) s =
      .next (s.complete (boolWord (s.button (s.handle ⟨h.toNat, inside⟩).btn).raw)) := by
  change execBtnIsPressed h s = _
  rw [execBtnIsPressed, handleIndex_of_lt inside]
  exact if_neg (by simp [valid])

end HandleInRange

/-! ### The commands -/

/-- Settles O46: a slot and a button that the operands name are bound, and an operand that names none is an
error. -/
theorem btnNewBindsTheHandle : Obligations.BtnNewBindsTheHandle := by
  refine ⟨fun w => (decode_eq_assemble_iff .btnNew w).mpr, fun s h k => ⟨fun btn inside named => ?_, ?_⟩⟩
  · have button : buttonIndex k = some btn := by
      rcases named with ⟨a, rfl⟩ | ⟨b, rfl⟩
      · rw [buttonIndex_eq, if_pos a]
      · rw [buttonIndex_eq, if_neg (by omega), if_pos b]
    exact ⟨_, exec_btnNew_of_lt inside button, rfl, fun j => s.setHandle_getElem ⟨h.toNat, inside⟩ j _⟩
  · rintro (slot | button)
    · exact (exec_button_of_ge slot k s).1
    · exact exec_btnNew_of_button_ge h button s

/-- Settles O47: of the handles only the one named is written, whatever the answer. -/
theorem btnWasPressedComparesAndUpdatesTheSnapshot : Obligations.BtnWasPressedComparesAndUpdatesTheSnapshot := by
  refine ⟨fun w => (decode_eq_assemble_iff .btnWasPressed w).mpr, fun s h =>
    ⟨fun inside valid => ?_, fun inside invalid => (exec_button_of_invalid inside invalid).1,
      fun outside => (exec_button_of_ge outside 0 s).2.1⟩⟩
  have handles := s.setHandle_getElem ⟨h.toNat, inside⟩
  exact ⟨_, exec_btnWasPressed_of_valid inside rfl valid, rfl, rfl,
    (handles ⟨h.toNat, inside⟩ _).trans (if_pos rfl), fun j other => (handles j _).trans (if_neg other)⟩

/-- Settles O48: the answer is the raw input, whatever is latched. -/
theorem btnIsPressedAnswersTheRawInput : Obligations.BtnIsPressedAnswersTheRawInput :=
  ⟨fun w => (decode_eq_assemble_iff .btnIsPressed w).mpr, fun s _ =>
    ⟨exec_btnIsPressed_of_valid, fun inside invalid => (exec_button_of_invalid inside invalid).2,
      fun outside => (exec_button_of_ge outside 0 s).2.2⟩⟩

end Sys2Proof.Machine
end

section
/-! The control commands of 43_control.md: the one spelling of `NOP` (R106, R240), the depth of critical sections
within its bounds (R241, R242), and the interrupt that the end of the outermost section lets in (R242). -/

namespace Sys2Proof.Machine

/-! ### NOP (R240) -/

/-- `NOP` leaves no bit of the word unused, so it has a single spelling (R106). -/
theorem spells_nop_iff (w : Word) : spells .nop w = true ↔ w = 0 := by
  rw [spells_iff]
  change w &&& BitVec.allOnes 32 = 0 ↔ w = 0
  rw [BitVec.and_allOnes]

/-- A word with `OP` = 0 other than `NOP` spells no row: the row would have the word's `OP` (R102). -/
theorem spells_eq_false_of_fieldOp_zero {w : Word} (op : fieldOp w = 0) (other : w ≠ 0) (o : Opcode) :
    spells o w = false := by
  refine Bool.eq_false_iff.mpr fun spelled => other ((spells_nop_iff w).mp ?_)
  have row : o = .nop := Opcode.number_injective ((fieldOp_of_spells spelled).symm.trans op)
  rwa [row] at spelled

/-- Settles O52: the command only completes, and the other words with its `OP` spell no row. -/
theorem nopWritesResultAndStatusOnly : Obligations.NopWritesResultAndStatusOnly :=
  ⟨fun _ => rfl, decode_of_spells (o := .nop) rfl, fun _ s op other =>
    executeWord_of_spells_none (spells_eq_false_of_fieldOp_zero op other) s⟩

/-! ### CS_ENTER and CS_EXIT (R241, R242) -/

theorem exec_csEnter_of_lt {s : State} (below : s.csDepth.toNat < 255) :
    exec .csEnter s = .next ({ s with csDepth := s.csDepth + 1 }.complete 0) := if_pos below

theorem exec_csEnter_of_full {s : State} (full : s.csDepth.toNat = 255) :
    exec .csEnter s = .next (s.cmdError .csDepthRange) := if_neg full.not_lt

theorem exec_csExit_of_pos {s : State} (inside : 0 < s.csDepth.toNat) :
    exec .csExit s = .next ({ s with csDepth := s.csDepth - 1 }.complete 0) := if_pos inside

theorem exec_csExit_of_zero {s : State} (outside : s.csDepth.toNat = 0) :
    exec .csExit s = .next (s.cmdError .csDepthRange) := if_neg outside.not_gt

/-- An enabled take precedes every HOST and SAMPLER step (R82). -/
theorem State.enabled_host_sampler_of_take {s : State} (take : s.take = true) :
    s.enabled .host = false ∧ s.enabled .sampler = false := by
  refine ⟨Bool.eq_false_iff.mpr fun host => ?_, Bool.eq_false_iff.mpr fun sampler => ?_⟩
  · obtain ⟨_, _, noTake⟩ := s.enabled_host_iff.mp host
    exact noTake take
  · obtain ⟨_, _, _, _, noTake⟩ := s.enabled_sampler_iff.mp sampler
    exact noTake take

/-- The end of the outermost section enables the take of a pending interrupt (R242). -/
theorem take_of_exec_csExit {s t : State} (outermost : s.csDepth.toNat = 1) (idle : s.seqPhase = .idle)
    (pending : s.irqLine = true) (done : exec .csExit s = .next t) : t.take = true := by
  rw [exec_csExit_of_pos (by omega)] at done
  cases done
  have unmasked : s.csDepth - 1 = 0 := by bv_omega
  exact (State.take_iff _).mpr ⟨idle, pending, unmasked⟩

/-- Settles O53: the checked bounds keep both changes of the depth from wrapping, and a request that a section
held pending is taken before any HOST or SAMPLER step. -/
theorem criticalSectionDepth : Obligations.CriticalSectionDepth := by
  refine ⟨decode_of_spells (o := .csEnter) rfl, decode_of_spells (o := .csExit) rfl, fun s =>
    ⟨fun below => ⟨_, ?raised, exec_csEnter_of_lt below⟩, exec_csEnter_of_full,
      fun inside => ⟨_, ?lowered, exec_csExit_of_pos inside⟩, exec_csExit_of_zero,
      fun outermost idle pending t done => ?ended⟩⟩
  case raised => bv_omega
  case lowered => bv_omega
  case ended =>
    have take := take_of_exec_csExit outermost idle pending done
    exact ⟨take, State.enabled_host_sampler_of_take take⟩

end Sys2Proof.Machine
end

section
/-! The agents after reset (70_reset_and_hazards.md, R302): what keeps each agent of the table of R82 from a step,
in the words of the rule, and which of these reasons hold in the state of R301. -/

namespace Sys2Proof.Machine

/-! ### Why an agent has no step (R82) -/

/-- A request is an enabled compare event or a software pend (R49). -/
theorem State.irqLine_of_disabled {s : State} (inten0 : s.inten0 = false) (inten1 : s.inten1 = false)
    (swpend : s.swpend = false) : s.irqLine = false := by
  simp only [State.irqLine, inten0, inten1, swpend, Bool.and_false, Bool.or_false]

theorem State.take_of_noRequest {s : State} (quiet : s.irqLine = false) : s.take = false :=
  Bool.eq_false_iff.mpr fun take =>
    have ⟨_, request, _⟩ := s.take_iff.mp take
    Bool.eq_false_iff.mp quiet request

theorem State.enabled_timer_of_stopped {s : State} (stopped : s.trun = false) : s.enabled .timer = false :=
  Bool.eq_false_iff.mpr fun enabled =>
    have ⟨_, running⟩ := s.enabled_timer_iff.mp enabled
    Bool.eq_false_iff.mp stopped running

theorem State.enabled_sampler_of_notStarted {s : State} (notStarted : s.samplerRun = false) :
    s.enabled .sampler = false :=
  Bool.eq_false_iff.mpr fun enabled =>
    have ⟨_, started, _⟩ := s.enabled_sampler_iff.mp enabled
    Bool.eq_false_iff.mp notStarted started

/-- An idle sequencer without a request has nothing to take. -/
theorem State.enabled_seq_of_quiet {s : State} (idle : s.seqPhase = .idle) (quiet : s.irqLine = false) :
    s.enabled .seq = false := by
  refine Bool.eq_false_iff.mpr fun enabled => ?_
  obtain ⟨_, take | running⟩ := s.enabled_seq_iff.mp enabled
  · exact Bool.eq_false_iff.mp (State.take_of_noRequest quiet) take
  · exact running idle

/-- What keeps `SEQ` from a step leaves the `HOST` its own. -/
theorem State.enabled_host_of_quiet {s : State} (noFault : s.fault = false) (idle : s.seqPhase = .idle)
    (quiet : s.irqLine = false) : s.enabled .host = true :=
  s.enabled_host_iff.mpr ⟨noFault, idle, Bool.eq_false_iff.mp (State.take_of_noRequest quiet)⟩

/-! ### The state after reset (R301, R302) -/

/-- Reset raises no request, whatever the parameters and the raw inputs. -/
theorem State.irqLine_fresh (p : Params) (rawA rawB : Bool) (agenda : List Choice) (draws : Nat) :
    (State.fresh p rawA rawB agenda draws).irqLine = false :=
  State.irqLine_of_disabled rfl rfl rfl

/-- Settles O57: the timer is stopped, the sampler not started and no request raised, which is all that `SEQ`
and `HOST` depend on while the sequencer is idle and no fault is recorded. -/
theorem onlyHostAndInputsActAfterReset : Obligations.OnlyHostAndInputsActAfterReset := by
  intro p rawA rawB agenda draws
  have quiet := State.irqLine_fresh p rawA rawB agenda draws
  exact ⟨State.enabled_timer_of_stopped rfl, State.enabled_seq_of_quiet rfl quiet,
    State.enabled_sampler_of_notStarted rfl, State.enabled_host_of_quiet rfl rfl quiet,
    (State.enabled_env_iff _).mpr rfl, quiet, rfl, rfl, rfl⟩

end Sys2Proof.Machine
end

section
/-! The encoding as a bijection onto the words that spell a row (30_encoding.md): a word is its fields where `RSV`
is 0, and a field that the row does not use is 0 (R100 to R105). -/

namespace Sys2Proof

/-! ### From an instruction to its word and back (R100, R103) -/

theorem assemble_encode (i : Instr) : assemble i.opcode (encode i) = i := by
  cases i <;> simp [Instr.opcode, assemble, encode]

/-- The word of an instruction spells the row of the instruction (R102). -/
theorem spells_encode (i : Instr) : spells i.opcode (encode i) = true := by
  rw [spells_iff]
  cases i with
  | nop => exact Laws.EncodingMatchesTable.nop
  | dispNew => exact Laws.EncodingMatchesTable.dispNew
  | showImage => exact Laws.EncodingMatchesTable.showImage
  | imgClear => exact Laws.EncodingMatchesTable.imgClear
  | imgWrite row col b => exact Laws.EncodingMatchesTable.imgWrite row col b
  | imgRead row col => exact Laws.EncodingMatchesTable.imgRead row col
  | imgShiftLeft n => exact Laws.EncodingMatchesTable.imgShiftLeft n
  | btnNew h k => exact Laws.EncodingMatchesTable.btnNew h k
  | btnWasPressed h => exact Laws.EncodingMatchesTable.btnWasPressed h
  | btnIsPressed h => exact Laws.EncodingMatchesTable.btnIsPressed h
  | csEnter => exact Laws.EncodingMatchesTable.csEnter
  | csExit => exact Laws.EncodingMatchesTable.csExit

@[simp] theorem decode_encode (i : Instr) : decode (encode i) = .command i := by
  rw [decode_of_spells (spells_encode i), assemble_encode]

@[simp] theorem tableWord_toNat (w : Word) : tableWord 32 w.toNat = w := by
  rw [tableWord, Nat.mod_eq_of_lt w.isLt, BitVec.ofNat_toNat, BitVec.setWidth_eq]

/-- Through the bytes of the window the decoder reads the same word (R73). -/
theorem decodeTableWord_toNat (w : Word) : decodeTableWord 32 w.toNat = (decode w).instr? := by
  rw [decodeTableWord, tableWord_toNat, decodeBytes_wordBytes]

/-! ### From a word to the instruction it spells and back (R102, R105) -/

/-- A word whose `RSV` is 0 is made of its other four fields (R100). -/
theorem packFields_fields {w : Word} (rsv : fieldRsv w = 0) :
    packFields (fieldOp w) (fieldA w) (fieldB w) (fieldImm8 w) = w := by
  refine BitVec.eq_of_getLsbD_eq fun i inWord => ?_
  have reserved (h : 8 ≤ i ∧ i < 20) : w.getLsbD i = false := by
    have bit := congrArg (·.getLsbD (i - 8)) rsv
    simpa [fieldRsv, show i - 8 < 12 by omega, show 8 + (i - 8) = i by omega] using bit
  rw [packFields_getLsbD]
  simp only [fieldOp, fieldA, fieldB, fieldImm8, BitVec.getLsbD_extractLsb']
  split_ifs
  · simp [*]
  · exact (reserved (by omega)).symm
  · simp [show i - 20 < 4 by omega, show 20 + (i - 20) = i by omega]
  · simp [show i - 24 < 4 by omega, show 24 + (i - 24) = i by omega]
  · simp [show i - 28 < 4 by omega, show 28 + (i - 28) = i by omega]

/-- The instruction of a row takes from a word the fields the row uses, and its own word is 0 in the others. -/
theorem encode_assemble (o : Opcode) (w : Word) : encode (assemble o w) =
    packFields o.number (if o.unused 24 4 then 0 else fieldA w) (if o.unused 20 4 then 0 else fieldB w)
      (if o.unused 0 8 then 0 else fieldImm8 w) := by
  cases o <;> rfl

/-- What a row does not use of a word that spells it is 0 already. -/
theorem ite_unused_field {o : Opcode} {w : Word} {start len : Nat} (spelled : spells o w = true) :
    (if o.unused start len then 0 else w.extractLsb' start len) = w.extractLsb' start len := by
  split
  · next unused => exact (field_eq_zero_of_spells spelled unused).symm
  · rfl

theorem encode_assemble_of_spells {o : Opcode} {w : Word} (spelled : spells o w = true) :
    encode (assemble o w) = w := by
  rw [encode_assemble, ← fieldOp_of_spells spelled]
  simp only [fieldA, fieldB, fieldImm8, ite_unused_field spelled]
  exact packFields_fields (field_eq_zero_of_spells spelled o.unused_rsv)

/-- Settles O13: a word that decodes spells a row, and assembling that row's command from it loses nothing. -/
theorem decodeAndEncodeAgree : Obligations.DecodeAndEncodeAgree := by
  refine ⟨fun i => ⟨decode_encode i, ?_⟩, fun w i decoded => ?_⟩
  · rw [decodeTableWord_toNat, decode_encode]
    rfl
  · obtain ⟨o, spelled, rfl⟩ := spells_of_decode decoded
    exact encode_assemble_of_spells spelled

/-- Settles O16: seven of the words are those of their instructions; the eighth has `OP` 6 and a bit set in `A`. -/
theorem listedWordsDecode : Obligations.ListedWordsDecode :=
  ⟨decode_encode (.imgWrite 2 3 128), decode_encode (.imgRead 2 3), decode_encode (.imgShiftLeft 255),
    decode_encode (.btnNew 2 1), decode_encode (.btnWasPressed 15), decode_encode .dispNew,
    decode_encode .csEnter, decode_of_spells_none fun o => by cases o <;> rfl⟩

end Sys2Proof
end

section
/-! What the agents' steps leave unchanged, in any state (R30, R246, R278): the frame of a sequencer step, the
parameters (R30), the schedules (R34, R163) and the press counters (R55, R218). -/

namespace Sys2Proof.Machine

/-! ### The frame of a sequencer step (R166 to R172) -/

/-- The MAIN phase writes the columns, the row and `ACTIVE`, or raises the fault of R169. -/
theorem mainPhase_frame (s : State) : mainPhase s = { s with
    colOn := (mainPhase s).colOn, rowPin := (mainPhase s).rowPin, curRow := (mainPhase s).curRow,
    stepIdx := (mainPhase s).stepIdx, active := (mainPhase s).active, seqPhase := (mainPhase s).seqPhase,
    statusErr := (mainPhase s).statusErr, fault := (mainPhase s).fault,
    faultReason := (mainPhase s).faultReason } := by
  unfold mainPhase stepThree
  dsimp only
  split
  · rfl
  · split <;> rfl

theorem programPhase_frame (s : State) : programPhase s = { s with
    cc0 := (programPhase s).cc0, trun := (programPhase s).trun, seqPhase := (programPhase s).seqPhase,
    statusErr := (programPhase s).statusErr, fault := (programPhase s).fault,
    faultReason := (programPhase s).faultReason } := by
  unfold programPhase
  split <;> rfl

theorem checkPhase_frame (s : State) :
    checkPhase s = { s with seqPhase := (checkPhase s).seqPhase } := by
  unfold checkPhase
  split <;> rfl

/-- Whatever its phase, the sequencer writes the elements it owns (R278) and what a fault writes (R273). -/
theorem seqStep_frame (s : State) : seqStep s = { s with
    colOn := (seqStep s).colOn, rowPin := (seqStep s).rowPin, curRow := (seqStep s).curRow,
    stepIdx := (seqStep s).stepIdx, active := (seqStep s).active, cc0 := (seqStep s).cc0,
    trun := (seqStep s).trun, ev0 := (seqStep s).ev0, ev1 := (seqStep s).ev1,
    swpend := (seqStep s).swpend, seqPhase := (seqStep s).seqPhase, statusErr := (seqStep s).statusErr,
    fault := (seqStep s).fault, faultReason := (seqStep s).faultReason } := by
  cases phase : s.seqPhase with
  | idle => rw [seqStep_of_idle phase]; rfl
  | entry => rw [seqStep_of_entry phase]; rfl
  | main => rw [seqStep_of_main phase, mainPhase_frame]
  | program => rw [seqStep_of_program phase, programPhase_frame]
  | check => rw [seqStep_of_check phase, checkPhase_frame]

@[simp] theorem seqStep_params (s : State) : (seqStep s).params = s.params := by
  rw [seqStep_frame]
@[simp] theorem seqStep_stage (s : State) : (seqStep s).stage = s.stage := by
  rw [seqStep_frame]
@[simp] theorem seqStep_pending (s : State) : (seqStep s).pending = s.pending := by
  rw [seqStep_frame]
@[simp] theorem seqStep_dispInit (s : State) : (seqStep s).dispInit = s.dispInit := by
  rw [seqStep_frame]
@[simp] theorem seqStep_tcount (s : State) : (seqStep s).tcount = s.tcount := by
  rw [seqStep_frame]
@[simp] theorem seqStep_csDepth (s : State) : (seqStep s).csDepth = s.csDepth := by
  rw [seqStep_frame]

/-! ### The parameters (R30) -/

theorem exec_params {i : Instr} {s t : State} (done : exec i s = .next t) : t.params = s.params := by
  rcases exec_cases done with ⟨_, _, rfl⟩ | ⟨_, rfl⟩ | ⟨_, rfl⟩ | ⟨_, _, rfl⟩ | ⟨_, _, rfl⟩ | ⟨_, _, rfl⟩ |
    ⟨_, _, rfl⟩ | ⟨_, _, rfl⟩ <;> rfl

theorem hostStep_params {op : HostOp} {s t : State} (done : hostStep op s = .next t) :
    t.params = s.params := by
  rcases hostStep_cases done with ⟨_, _, _, rfl⟩ | ⟨_, _, _, rfl | rfl | ⟨_, _, ran⟩⟩
  · rfl
  · rfl
  · rfl
  · exact exec_params ran

@[simp] theorem envStep_params (k : ButtonId) (v : Bool) (s : State) : (envStep k v s).params = s.params := by
  cases k <;> rfl

theorem AgentStep.params {s u : State} (stepped : AgentStep s u) : u.params = s.params := by
  cases stepped with
  | timer _ _ taken => rw [taken]; exact s.dropChoice_params
  | seq _ _ taken => rw [taken, seqStep_params, s.dropChoice_params]
  | seqFirst _ _ taken => rw [taken, seqStep_params]; exact s.dropChoice_params
  | sampler _ _ taken => rw [taken]; exact s.dropChoice_params
  | env k v _ _ taken => rw [taken, envStep_params, s.dropChoice_params]
  | host op _ _ taken => rw [hostStep_params taken, s.dropChoice_params]
  | pass taken => rw [taken, s.dropChoice_params]

/-- The check after a step writes what a fault writes and nothing else (R273). -/
theorem State.settle_frame (s : State) : s.settle = { s with
    fault := s.settle.fault, statusErr := s.settle.statusErr, faultReason := s.settle.faultReason } := by
  rcases s.settle_cases with same | ⟨-, -, broken⟩
  · rw [same]
  · rw [broken]
    rfl

@[simp] theorem State.settle_params (s : State) : s.settle.params = s.params := by
  rw [s.settle_frame]
@[simp] theorem State.settle_pending (s : State) : s.settle.pending = s.pending := by
  rw [s.settle_frame]
@[simp] theorem State.settle_active (s : State) : s.settle.active = s.active := by
  rw [s.settle_frame]

/-- Settles O2: each agent's step, the reset and the check after either leave the parameters. -/
theorem noStepWritesParameters : Obligations.NoStepWritesParameters := by
  intro s t stepped
  rcases (step_cases stepped).2 with ⟨rawA, rawB, -, rfl⟩ | ⟨-, -, u, agentStep, rfl⟩
  · rw [State.settle_params]
    exact s.dropChoice_params
  · rw [State.settle_params, agentStep.params]

/-! ### The schedules (R34, R163) -/

/-- `ACTIVE` over a sequencer step: it changes in a transition to derived row 0 only, to `PENDING` (R163, R170). -/
theorem seqStep_active_cases (s : State) : (seqStep s).active = s.active ∨
    (s.seqPhase = .main ∧ derivedRow s.params s.count = 0 ∧ s.curRow ≠ some 0 ∧
      (seqStep s).active = s.pending) := by
  cases phase : s.seqPhase with
  | idle => rw [seqStep_of_idle phase]; exact .inl rfl
  | entry => rw [seqStep_of_entry phase]; exact .inl rfl
  | program => rw [seqStep_of_program phase, programPhase_frame]; exact .inl rfl
  | check => rw [seqStep_of_check phase, checkPhase_frame]; exact .inl rfl
  | main =>
    rw [seqStep_of_main phase]
    by_cases inside : derivedRow s.params s.tcount.toNat < s.params.rows
    · have active : (mainPhase s).active = (stepThree (derivedRow s.params s.tcount.toNat) s).active := by
        rw [mainPhase_of_lt inside]
        rfl
      rw [active]
      by_cases current : s.curRow = some (derivedRow s.params s.tcount.toNat)
      · rw [stepThree_of_current current]
        exact .inl rfl
      · rw [stepThree_of_ne current]
        by_cases first : derivedRow s.params s.tcount.toNat = 0
        · exact .inr ⟨rfl, first, first ▸ current, if_pos first⟩
        · exact .inl (if_neg first)
    · unfold mainPhase
      rw [if_pos (Nat.le_of_not_lt inside)]
      exact .inl rfl

/-- What a step of the machine makes of `PENDING`: SHOW alone replaces it (R34). -/
def PendingLaw (s t : State) : Prop :=
  t.pending = s.pending ∨
    ∃ addr w, s.nextChoice = .host (.write addr 4 w) ∧ decode w = .command .showImage ∧
      t.pending = buildSchedule s.params s.stage

/-- What a step of the machine makes of `ACTIVE`: the transition to row 0 and DISP_NEW replace it (R163). -/
def ActiveLaw (s t : State) : Prop :=
  t.active = s.active ∨
    (s.seqPhase = .main ∧ derivedRow s.params s.count = 0 ∧ s.curRow ≠ some 0 ∧ t.active = s.pending) ∨
    ∃ addr w, s.nextChoice = .host (.write addr 4 w) ∧ decode w = .command .dispNew ∧
      s.dispInit = false ∧ t.active = zeroSched s.params

theorem schedules_of_kept {s t : State} (pending : t.pending = s.dropChoice.pending)
    (active : t.active = s.dropChoice.active) : PendingLaw s t ∧ ActiveLaw s t :=
  ⟨.inl (pending.trans s.dropChoice_pending), .inl (active.trans s.dropChoice_active)⟩

theorem schedules_of_exec {i : Instr} {s t : State} {addr : Nat} {w : Word}
    (chosen : s.nextChoice = .host (.write addr 4 w)) (decoded : decode w = .command i)
    (done : exec i s.dropChoice = .next t) : PendingLaw s t ∧ ActiveLaw s t := by
  rcases exec_cases done with ⟨_, _, rfl⟩ | ⟨_, rfl⟩ | ⟨_, rfl⟩ | ⟨rfl, _, rfl⟩ | ⟨rfl, off, rfl⟩ | ⟨_, _, rfl⟩ |
    ⟨_, _, rfl⟩ | ⟨_, _, rfl⟩
  · exact schedules_of_kept rfl rfl
  · exact schedules_of_kept rfl rfl
  · exact schedules_of_kept rfl rfl
  · exact ⟨.inr ⟨addr, w, chosen, decoded, by simp⟩, .inl (by simp)⟩
  · refine ⟨.inl s.dropChoice_pending, .inr (.inr ⟨addr, w, chosen, decoded, ?_, ?_⟩)⟩
    · rwa [s.dropChoice_dispInit] at off
    · exact congrArg zeroSched s.dropChoice_params
  · exact schedules_of_kept rfl rfl
  · exact schedules_of_kept rfl rfl
  · exact schedules_of_kept rfl rfl

theorem AgentStep.schedules {s u : State} (stepped : AgentStep s u) : PendingLaw s u ∧ ActiveLaw s u := by
  have sequenced (t : State) (pending : t.pending = s.pending) (active : t.active = s.active ∨
      (s.seqPhase = .main ∧ derivedRow s.params s.count = 0 ∧ s.curRow ≠ some 0 ∧ t.active = s.pending)) :
      PendingLaw s t ∧ ActiveLaw s t := ⟨.inl pending, active.imp_right .inl⟩
  cases stepped with
  | timer _ _ taken => rw [taken]; exact schedules_of_kept rfl rfl
  | sampler _ _ taken => rw [taken]; exact schedules_of_kept rfl rfl
  | env k v _ _ taken => rw [taken]; cases k <;> exact schedules_of_kept rfl rfl
  | pass taken => rw [taken]; exact schedules_of_kept rfl rfl
  | seq _ _ taken =>
    rw [taken]
    exact sequenced _ (by simp) (by simpa [State.count] using seqStep_active_cases s.dropChoice)
  | seqFirst _ _ taken =>
    rw [taken]
    exact sequenced _ (by simp)
      (by simpa [State.count] using seqStep_active_cases (s.dropChoice.putBack s.nextChoice))
  | host op chosen _ taken =>
    rcases hostStep_cases taken with ⟨_, _, _, rfl⟩ | ⟨addr, w, rfl, rfl | rfl | ⟨i, decoded, ran⟩⟩
    · exact schedules_of_kept rfl rfl
    · exact schedules_of_kept rfl rfl
    · exact schedules_of_kept rfl rfl
    · exact schedules_of_exec chosen decoded ran

/-- Settles O3: over each agent's step the two laws hold, and the check after it leaves both schedules. -/
theorem schedulesChangeOnlyBySwapOrCommand : Obligations.SchedulesChangeOnlyBySwapOrCommand := by
  intro s t stepped agent
  rcases (step_cases stepped).2 with ⟨rawA, rawB, reset, -⟩ | ⟨-, -, u, agentStep, rfl⟩
  · exact absurd (by rw [reset]; rfl) agent
  · rw [State.settle_pending, State.settle_active]
    exact agentStep.schedules

/-! ### The press counters (R55, R218) -/

/-- A sample advances the counter exactly where it sets the latch (R214). -/
theorem sampleUpdate_pressCount (b : Button) : (sampleUpdate b).pressCount =
    if b.latched = false ∧ (sampleUpdate b).latched = true then b.pressCount + 1 else b.pressCount := by
  by_cases press : 8 < nextSigma b.raw b.sigma ∧ b.latched = false
  · rw [sampleUpdate_of_press press, if_pos ⟨press.2, rfl⟩]
  · by_cases release : nextSigma b.raw b.sigma < 2 ∧ b.latched = true
    · rw [sampleUpdate_of_release release, if_neg (by simp)]
    · rw [sampleUpdate_of_band press release, if_neg (by simp)]

/-- Settles O51: a step samples a button, or leaves its latch and its counter. -/
theorem everyLatchingCountsOnePress : Obligations.EveryLatchingCountsOnePress := by
  intro s t k stepped agent
  rcases step_button_cases stepped k with ⟨none, -⟩ | sampled | ⟨v, written⟩
  · exact absurd none agent
  · rw [sampled]
    exact sampleUpdate_pressCount _
  · rw [written, if_neg (by simp)]

end Sys2Proof.Machine
end

section
/-! The invariant of 10_state.md section 8 along every step (R61, R274): what it does not read, what each agent's
step, each command and the reset keep of it, and so what every reachable state meets. -/

namespace Sys2Proof.Machine

/-! ### What the invariant does not read -/

/-- Pins that are all low. -/
theorem getD_replicate_false (n r : Nat) : (List.replicate n false).getD r false = false := by
  rw [List.getD_eq_getElem?_getD, List.getElem?_getD_replicate_default_eq]

theorem nextSigma_le (raw : Bool) {sigma : Nat} (low : sigma ≤ 12) : nextSigma raw sigma ≤ 12 := by
  rw [nextSigma_eq]
  split <;> omega

section Frames

variable {s : State} (inv : s.Inv)
include inv

/-- The elements the invariant does not read are free, and the error code may be any defined one (R272). -/
theorem State.Inv.frame {stage : Image} {cc0 : BitVec 32} {ev0 ev1 : Bool} {csDepth : BitVec 8}
    {samplerRun : Bool} {handles : Vector Handle 4} {result : Word} {code : Byte} {reason : Option Fault}
    {readData : Option Word} {agenda : List Choice} {draws : Nat} (defined : code.toNat ≤ 6) :
    State.Inv { s with
      stage := stage, cc0 := cc0, ev0 := ev0, ev1 := ev1, csDepth := csDepth, samplerRun := samplerRun,
      handles := handles, result := result, statusErr := code, faultReason := reason, readData := readData,
      agenda := agenda, draws := draws } :=
  { inv with codeDefined := defined }

theorem State.Inv.publish {sched : Schedule} (order : scheduleOk s.params sched = true) :
    State.Inv { s with pending := sched } :=
  { inv with
    contract := (State.contractHolds_iff _).mpr ⟨inv.shape, inv.loneRow, inv.stepIdx_le, inv.sigma_le,
      ⟨inv.schedules.1, order⟩, inv.timer, inv.phase⟩ }

/-- In a constructed display the sequencer may take any phase, PROGRAM only with a current row, and may write its
requests, the compare value and the timer's run bit. -/
theorem State.Inv.enterPhase (on : s.dispInit = true) {phase : SeqPhase}
    (programmable : phase = .program → s.curRow ≠ none) {cc0 : BitVec 32} {trun ev0 ev1 swpend : Bool} :
    State.Inv { s with
      cc0 := cc0, trun := trun, ev0 := ev0, ev1 := ev1, swpend := swpend, seqPhase := phase } :=
  { inv with
    contract := (State.contractHolds_iff _).mpr ⟨inv.shape, inv.loneRow, inv.stepIdx_le, inv.sigma_le,
      inv.schedules, inv.timer, fun _ => on⟩
    unarmed := fun off => absurd on (Bool.eq_false_iff.mp off)
    programmable := programmable }

theorem State.Inv.putBack (c : Choice) : (s.putBack c).Inv := inv.frame inv.codeDefined

theorem State.Inv.dropChoice : s.dropChoice.Inv := by
  unfold State.dropChoice
  split <;> exact inv.frame inv.codeDefined

/-! ### The agents' steps -/

/-- The counter of a constructed display after a tick: one on, and 0 at the end of the frame (R165). -/
theorem State.Inv.timerTick_count (on : s.dispInit = true) : (timerTick s).tcount.toNat =
    if s.tcount.toNat + 1 = s.params.tpf then 0 else s.tcount.toNat + 1 := by
  obtain ⟨-, -, counts⟩ := timerTickCountsAndMatches
  exact (counts s inv on).1

theorem State.Inv.timerTick : (timerTick s).Inv :=
  { inv with
    contract := (State.contractHolds_iff _).mpr ⟨inv.shape, inv.loneRow, inv.stepIdx_le, inv.sigma_le,
      inv.schedules, fun on => by
        obtain ⟨below, compare⟩ := inv.timer on
        refine ⟨?_, compare⟩
        rw [inv.timerTick_count on]
        change (if s.tcount.toNat + 1 = s.params.tpf then 0 else s.tcount.toNat + 1) < s.params.tpf
        split <;> omega, inv.phase⟩ }

theorem State.Inv.samplerStep : (samplerStep s).Inv := by
  obtain ⟨lowA, lowB⟩ := inv.sigma_le
  have sigma : (sampleUpdate s.btnA).sigma ≤ 12 ∧ (sampleUpdate s.btnB).sigma ≤ 12 := by
    rw [sampleUpdate_sigma, sampleUpdate_sigma]
    exact ⟨nextSigma_le _ lowA, nextSigma_le _ lowB⟩
  exact { inv with
    contract := (State.contractHolds_iff _).mpr ⟨inv.shape, inv.loneRow, inv.stepIdx_le, sigma,
      inv.schedules, inv.timer, inv.phase⟩
    latchA := sampleUpdate_inBand s.btnA
    latchB := sampleUpdate_inBand s.btnB }

theorem State.Inv.envStep (k : ButtonId) (v : Bool) : (envStep k v s).Inv := by
  cases k
  · exact { inv with latchA := inv.latchA }
  · exact { inv with latchB := inv.latchB }

/-! ### The phases of a pass -/

theorem State.Inv.stepThree {d : Nat} (hd : d < s.params.rows) : (stepThree d s).Inv := by
  obtain ⟨-, order, inRow, shape⟩ := stepThree_inOrder inv hd
  by_cases current : s.curRow = some d
  · rwa [stepThree_of_current current]
  · rw [stepThree_of_ne current] at order inRow shape ⊢
    have rowShape : (rowTransition d s).rowPin.length = s.params.rows :=
      List.length_set.trans ((length_dropRowPin _ _).trans inv.shape.1)
    have lone (r : Nat) (high : (rowTransition d s).rowPin.getD r false = true) : some d = some r := by
      rw [getD_rowPin_rowTransition inv hd] at high
      rw [of_decide_eq_true high]
    exact { inv with
      contract := (State.contractHolds_iff _).mpr ⟨⟨rowShape, shape⟩, lone, inRow, inv.sigma_le,
        ⟨order, inv.schedules.2⟩, inv.timer, inv.phase⟩
      rowLegal := fun r row => Option.some.inj row ▸ hd
      programmable := fun _ => nofun }

theorem State.Inv.stepFour {d : Nat} (hd : d < s.params.rows) (now : Nat) : (stepFour d now s).Inv := by
  have shape : (Machine.stepFour d now s).colOn.length = s.params.cols := by
    change (turnOffDue _ _ _ _).1.length = _
    rw [turnOffDue_eq, length_setColumns, inv.shape.2]
  have inRow : (Machine.stepFour d now s).stepIdx ≤ s.params.cols := by
    rw [(stepFour_spec hd inv.schedules.1 inv.stepIdx_le inv.shape.2 now).1,
      ← length_of_rowOk (rowOk_schedRow inv.schedules.1 hd)]
    refine max_le ?_ List.countP_le_length
    rw [length_of_rowOk (rowOk_schedRow inv.schedules.1 hd)]
    exact inv.stepIdx_le
  exact { inv with
    contract := (State.contractHolds_iff _).mpr ⟨⟨inv.shape.1, shape⟩, inv.loneRow, inRow, inv.sigma_le,
      inv.schedules, inv.timer, inv.phase⟩ }

theorem State.Inv.mainPhase (main : s.seqPhase = .main) : (seqStep s).Inv := by
  have on := inv.phase (by rw [main]; nofun)
  have hd := inv.derivedRow_lt on
  have selected : s.rowSelected.Inv := inv.stepThree hd
  have row : s.rowSelected.curRow = some (derivedRow s.params s.tcount.toNat) := curRow_stepThree _ s
  have params : s.rowSelected.params = s.params := params_stepThree _ s
  have onSelected : s.rowSelected.dispInit = true := (stepThree_retains _ s).dispInit on
  rw [seqStep_main_eq inv main]
  exact (selected.stepFour (params ▸ hd) _).enterPhase onSelected fun _ => by
    change s.rowSelected.curRow ≠ none
    rw [row]
    nofun

theorem State.Inv.programPhase (program : s.seqPhase = .program) : (seqStep s).Inv := by
  obtain ⟨r, row⟩ := Option.ne_none_iff_exists'.mp (inv.programmable program)
  obtain ⟨v, deadline⟩ := exists_nextDeadline inv row
  rw [seqStep_of_program program, programPhase_of_deadline row deadline]
  exact inv.enterPhase (inv.phase (by rw [program]; nofun)) (by nofun)

/-- A step of the sequencer in a constructed display, where alone it has one. -/
theorem State.Inv.seqStep (on : s.dispInit = true) : (seqStep s).Inv := by
  cases phase : s.seqPhase with
  | idle => rw [seqStep_of_idle phase]; exact inv.enterPhase on (by nofun)
  | entry => rw [seqStep_of_entry phase]; exact inv.enterPhase on (by nofun)
  | main => exact inv.mainPhase phase
  | program => exact inv.programPhase phase
  | check =>
    rw [seqStep_of_check phase]
    unfold checkPhase
    split <;> exact inv.enterPhase on (by nofun)

/-- An unconstructed display is idle and requests nothing (R43, R46, R48, R61 (f)). -/
theorem State.Inv.idle_quiet_of_off (off : s.dispInit = false) : s.seqPhase = .idle ∧ s.irqLine = false := by
  obtain ⟨inten0, inten1, swpend, -⟩ := inv.unarmed off
  exact ⟨by_contra fun running => Bool.eq_false_iff.mp off (inv.phase running),
    State.irqLine_of_disabled inten0 inten1 swpend⟩

/-- The sequencer has a step in a constructed display only. -/
theorem State.Inv.on_of_enabled_seq (enabled : s.enabled .seq = true) : s.dispInit = true := by
  by_contra off
  obtain ⟨idle, quiet⟩ := inv.idle_quiet_of_off (Bool.eq_false_iff.mpr off)
  exact Bool.eq_false_iff.mp (State.enabled_seq_of_quiet idle quiet) enabled

/-! ### The commands and the HOST's accesses -/

theorem State.Inv.constructDisplay (off : s.dispInit = false) : s.constructDisplay.Inv where
  paramsOk := inv.paramsOk
  running := inv.running
  contract := by
    have dark (r : Nat) (high : (List.replicate s.params.rows false).getD r false = true) : none = some r :=
      absurd high (by rw [getD_replicate_false]; decide)
    have frame : (BitVec.ofNat 32 s.params.tpf).toNat = s.params.tpf := by
      rw [BitVec.toNat_ofNat, Nat.mod_eq_of_lt (Params.tpf_lt inv.paramsOk)]
    exact (State.contractHolds_iff _).mpr ⟨⟨List.length_replicate, List.length_replicate⟩, dark, Nat.zero_le _,
      inv.sigma_le, ⟨scheduleOk_zeroSched _, inv.schedules.2⟩,
      fun _ => ⟨Params.tpf_pos inv.paramsOk, frame⟩, fun _ => rfl⟩
  rowLegal := nofun
  armed _ := ⟨rfl, rfl, rfl⟩
  unarmed := nofun
  programmable program := absurd program (by
    rw [show s.constructDisplay.seqPhase = s.seqPhase from rfl, (inv.idle_quiet_of_off off).1]; nofun)
  latchA := inv.latchA
  latchB := inv.latchB
  codeDefined := inv.codeDefined

theorem State.Inv.cmdError (e : ErrorCode) : (s.cmdError e).Inv :=
  inv.frame (by cases e <;> decide)

theorem State.Inv.complete (answer : Word) : (s.complete answer).Inv := inv.frame (by decide)

theorem State.Inv.exec {i : Instr} {t : State} (done : exec i s = .next t) : t.Inv := by
  rcases exec_cases done with ⟨e, _, rfl⟩ | ⟨_, rfl⟩ | ⟨_, rfl⟩ | ⟨_, _, rfl⟩ | ⟨_, off, rfl⟩ | ⟨_, _, rfl⟩ |
    ⟨_, _, rfl⟩ | ⟨_, _, rfl⟩
  · exact inv.cmdError e
  · exact inv.complete _
  · exact inv.frame (by decide)
  · exact (inv.publish (scheduleOk_buildSchedule inv.paramsOk s.stage)).complete 0
  · exact (inv.constructDisplay off).complete 0
  · exact inv.frame (by decide)
  · exact inv.frame (by decide)
  · exact inv.frame (by decide)

theorem State.Inv.hostStep {op : HostOp} {t : State} (done : hostStep op s = .next t) : t.Inv := by
  rcases hostStep_cases done with ⟨_, _, _, rfl⟩ | ⟨_, _, _, rfl | rfl | ⟨_, _, ran⟩⟩
  · exact inv.frame inv.codeDefined
  · exact inv
  · exact inv.cmdError _
  · exact inv.exec ran

/-! ### Steps of the machine -/

theorem State.Inv.agentStep {u : State} (stepped : AgentStep s u) : u.Inv := by
  have start := inv.dropChoice
  have on (enabled : s.enabled .seq = true) : s.dropChoice.dispInit = true :=
    s.dropChoice_dispInit.trans (inv.on_of_enabled_seq enabled)
  cases stepped with
  | timer _ _ taken => rw [taken]; exact start.timerTick
  | seq _ enabled taken => rw [taken]; exact start.seqStep (on enabled)
  | seqFirst _ enabled taken => rw [taken]; exact (start.putBack _).seqStep (on enabled)
  | sampler _ _ taken => rw [taken]; exact start.samplerStep
  | env k v _ _ taken => rw [taken]; exact start.envStep k v
  | host op _ _ taken => exact start.hostStep taken
  | pass taken => rw [taken]; exact start

/-- The check of R61 leaves a state of the invariant as it is. -/
theorem State.Inv.settle : s.settle = s := State.settle_of_contract inv.contract

end Frames

/-! ### Reset (R301) -/

theorem State.resetWith_inv {p : Params} (wf : p.wellFormed = true) (rawA rawB : Bool) :
    (State.resetWith p rawA rawB).Inv where
  paramsOk := wf
  running := rfl
  contract := by
    have dark (r : Nat) (high : (List.replicate p.rows false).getD r false = true) : none = some r :=
      absurd high (by rw [getD_replicate_false]; decide)
    exact (State.contractHolds_iff _).mpr ⟨⟨List.length_replicate, List.length_replicate⟩, dark, Nat.zero_le _,
      ⟨Nat.zero_le _, Nat.zero_le _⟩, ⟨scheduleOk_zeroSched _, scheduleOk_zeroSched _⟩, nofun,
      fun running => absurd rfl running⟩
  rowLegal := nofun
  armed := nofun
  unarmed _ := ⟨rfl, rfl, rfl, rfl⟩
  programmable := nofun
  latchA := resetButton_inBand rawA
  latchB := resetButton_inBand rawB
  codeDefined := Nat.zero_le 6

/-- Settles O6: `State.reset` and every fresh block are the reset state but for elements the invariant does not
read. -/
theorem resetMeetsTheInvariant : Obligations.ResetMeetsTheInvariant :=
  ⟨State.resetWith_inv (by decide) false false, fun _ rawA rawB _ _ wf =>
    (State.resetWith_inv wf rawA rawB).frame (Nat.zero_le 6)⟩

/-- Settles O5: a reset gives the reset state, each agent's step keeps the invariant, and the check after either
has nothing to do. -/
theorem everyStepKeepsTheInvariant : Obligations.EveryStepKeepsTheInvariant := by
  intro s t inv stepped
  obtain ⟨wf, ⟨rawA, rawB, -, rfl⟩ | ⟨-, -, u, agentStep, rfl⟩⟩ := step_cases stepped
  · have reset : (s.dropChoice.resetEvent rawA rawB).Inv :=
      (State.resetWith_inv (s.dropChoice_params.symm ▸ wf) rawA rawB).frame (Nat.zero_le 6)
    rwa [reset.settle]
  · have kept := inv.agentStep agentStep
    rwa [kept.settle]

/-! ### Reachable states (R61, R274) -/

theorem Reachable.inv {s : State} (reached : Reachable s) : s.Inv := by
  induction reached with
  | reset p rawA rawB agenda draws wf => exact resetMeetsTheInvariant.2 p rawA rawB agenda draws wf
  | step s t _ stepped ih => exact everyStepKeepsTheInvariant s t ih stepped

/-- A lit LED is in the current row, inside the grid (R39). -/
theorem State.Inv.lit_inside {s : State} (inv : s.Inv) {r c : Nat} (lit : s.lit r c = true) :
    s.curRow = some r ∧ r < s.params.rows ∧ c < s.params.cols := by
  simp only [State.lit, Bool.and_eq_true] at lit
  obtain ⟨⟨-, pin⟩, column⟩ := lit
  have row := inv.loneRow r pin
  refine ⟨row, inv.rowLegal r row, ?_⟩
  by_contra outside
  rw [List.getD_eq_default _ _ (inv.shape.2.trans_le (Nat.le_of_not_lt outside))] at column
  cases column

/-- Settles O4: the invariant's clauses, with a schedule in order said row by row. -/
theorem reachableStatesSatisfyTheInvariants : Obligations.ReachableStatesSatisfyTheInvariants := by
  intro s reached
  have inv := reached.inv
  obtain ⟨lowA, lowB⟩ := inv.sigma_le
  refine ⟨inv.loneRow, inv.stepIdx_le, fun k => ?sigma, fun sched either => ?schedules, inv.timer, inv.phase,
    fun r c => inv.lit_inside⟩
  case sigma => cases k <;> assumption
  case schedules =>
    have order : scheduleOk s.params sched = true := by
      rcases either with rfl | rfl
      · exact inv.schedules.1
      · exact inv.schedules.2
    obtain ⟨len, rows⟩ := (scheduleOk_iff _ _).mp order
    exact ⟨len, fun row mem => (rowOk_iff _ _).mp (rows row mem)⟩

/-! ### No fault (R274) -/

/-- Every command answers a next state. -/
theorem exists_exec (i : Instr) (s : State) : ∃ t, exec i s = .next t := by
  cases i with
  | nop => exact ⟨_, rfl⟩
  | dispNew => simp only [exec, execDispNew]; split <;> exact ⟨_, rfl⟩
  | showImage => simp only [exec, execShow]; split <;> exact ⟨_, rfl⟩
  | imgClear => exact ⟨_, rfl⟩
  | imgWrite row col b => simp only [exec, execImgWrite]; split <;> exact ⟨_, rfl⟩
  | imgRead row col => simp only [exec, execImgRead]; split <;> exact ⟨_, rfl⟩
  | imgShiftLeft n => exact ⟨_, rfl⟩
  | btnNew h k => simp only [exec, execBtnNew]; split <;> exact ⟨_, rfl⟩
  | btnWasPressed h =>
    simp only [exec, execBtnWasPressed]
    cases handleIndex h with
    | none => exact ⟨_, rfl⟩
    | some slot => dsimp only; split_ifs <;> exact ⟨_, rfl⟩
  | btnIsPressed h =>
    simp only [exec, execBtnIsPressed]
    cases handleIndex h with
    | none => exact ⟨_, rfl⟩
    | some slot => dsimp only; split_ifs <;> exact ⟨_, rfl⟩
  | csEnter => simp only [exec, execCsEnter]; split <;> exact ⟨_, rfl⟩
  | csExit => simp only [exec, execCsExit]; split <;> exact ⟨_, rfl⟩

/-- A HOST access completes or is refused by name. -/
theorem hostStep_ne_fault (op : HostOp) (s : State) (r : Fault) : hostStep op s ≠ .fault r := by
  cases op with
  | read addr n =>
    simp only [hostStep, hostRead]
    split <;> nofun
  | write addr n w =>
    simp only [hostStep, hostWrite]
    split
    · split
      · unfold executeWord
        split
        · next i _ =>
          obtain ⟨t, done⟩ := exists_exec i s
          rw [done]
          nofun
        · nofun
      · nofun
    · nofun

theorem agentStep_ne_fault (c : Choice) (s : State) (r : Fault) : agentStep c s ≠ .fault r := by
  have cooperative (c : Choice) (a : Agent) {own : State → Host.Outcome State Fault Refusal}
      (safe : own s ≠ .fault r) : cooperativeStep c a own s ≠ .fault r := by
    unfold cooperativeStep
    split
    · nofun
    · split
      · exact safe
      · nofun
  cases c with
  | timer => nofun
  | seq => nofun
  | env k v => nofun
  | reset rawA rawB => nofun
  | sampler => exact cooperative .sampler .sampler (own := fun t => .next (samplerStep t)) nofun
  | host op => exact cooperative _ _ (hostStep_ne_fault op s r)

/-- Only a block that has faulted answers with a fault (R60, R274). -/
theorem step_ne_fault {s : State} (running : s.fault = false) (r : Fault) : step s ≠ .fault r := by
  unfold step runChoice
  rw [s.dropChoice_fault, running, Bool.and_false]
  split
  · nofun
  · have safe := agentStep_ne_fault s.nextChoice s.dropChoice r
    cases outcome : agentStep s.nextChoice s.dropChoice with
    | next t => nofun
    | fault r' => exact fun same => safe (outcome.trans same)
    | refused r' => nofun

/-- Settles O55: a reachable state has not faulted, so its step answers no fault, and the next state has not
faulted either. -/
theorem noReachableStateFaults : Obligations.NoReachableStateFaults := by
  intro s reached
  cases stepped : step s with
  | next t => exact (everyStepKeepsTheInvariant s t reached.inv stepped).running
  | fault r => exact step_ne_fault reached.inv.running r stepped
  | refused r => trivial

end Sys2Proof.Machine
end

section
/-! A step of the machine whose choice is known (20_memory.md sections 2 and 3): the choice of an agent that has a
step, the order of R82, a command word written to `CMD`, a faulted block and the reset (R60, R80, R274, R300). -/

namespace Sys2Proof.Machine

/-! ### The choice that is run (R80) -/

theorem step_of_cons {s : State} {c : Choice} {rest : List Choice} (listed : s.agenda = c :: rest) :
    step s = runChoice c { s with agenda := rest } := by
  rw [step, s.nextChoice_of_cons c rest listed, s.dropChoice_of_cons c rest listed]

@[simp] theorem State.enabled_withAgenda (s : State) (rest : List Choice) (a : Agent) :
    State.enabled { s with agenda := rest } a = s.enabled a := by
  cases a <;> rfl

/-- In a block that has not faulted a choice runs its agent's step, and the check follows (R60, R61). -/
theorem runChoice_of_running {s : State} (wf : s.params.wellFormed = true) (running : s.fault = false)
    (c : Choice) : runChoice c s = settleOutcome (agentStep c s) := by
  rw [runChoice, if_neg (by simp [wf]), if_neg (by simp [running])]

theorem step_of_running {s : State} {c : Choice} {rest : List Choice} (wf : s.params.wellFormed = true)
    (running : s.fault = false) (listed : s.agenda = c :: rest) :
    step s = settleOutcome (agentStep c { s with agenda := rest }) :=
  (step_of_cons listed).trans (runChoice_of_running (s := { s with agenda := rest }) wf running c)

theorem State.running_of_enabled {s : State} {a : Agent} (enabled : s.enabled a = true) : s.fault = false :=
  Bool.eq_false_iff.mpr fun fault => Bool.eq_false_iff.mp (State.enabled_of_fault fault a) enabled

/-- Where the HOST or the SAMPLER has a step, the sequencer has none (R82). -/
theorem State.enabled_seq_of_cooperative {s : State} {a : Agent} (cooperative : a = .host ∨ a = .sampler)
    (enabled : s.enabled a = true) : s.enabled .seq = false := by
  refine Bool.eq_false_iff.mpr fun seq => ?_
  obtain ⟨-, taken⟩ := s.enabled_seq_iff.mp seq
  rcases cooperative with rfl | rfl
  · obtain ⟨-, idle, noTake⟩ := s.enabled_host_iff.mp enabled
    exact taken.elim noTake (not_not_intro idle)
  · obtain ⟨-, -, -, idle, noTake⟩ := s.enabled_sampler_iff.mp enabled
    exact taken.elim noTake (not_not_intro idle)

section Cooperative

variable {s : State} {c : Choice} {a : Agent} {own : State → Host.Outcome State Fault Refusal}

theorem cooperativeStep_of_seq (seq : s.enabled .seq = true) :
    cooperativeStep c a own s = .next (seqStep (s.putBack c)) := if_pos seq

theorem cooperativeStep_of_enabled (cooperative : a = .host ∨ a = .sampler) (enabled : s.enabled a = true) :
    cooperativeStep c a own s = own s := by
  rw [cooperativeStep, if_neg (Bool.eq_false_iff.mp (State.enabled_seq_of_cooperative cooperative enabled)),
    if_pos enabled]

theorem cooperativeStep_of_neither (seq : s.enabled .seq = false) (disabled : s.enabled a = false) :
    cooperativeStep c a own s = .next s := by
  rw [cooperativeStep, if_neg (Bool.eq_false_iff.mp seq), if_neg (Bool.eq_false_iff.mp disabled)]

end Cooperative

/-- A choice of the HOST where it has a step runs its access (R72, R82). -/
theorem runChoice_host {s : State} (wf : s.params.wellFormed = true) (enabled : s.enabled .host = true)
    (op : HostOp) : runChoice (.host op) s = settleOutcome (hostStep op s) := by
  rw [runChoice_of_running wf (State.running_of_enabled enabled), agentStep,
    cooperativeStep_of_enabled (.inl rfl) enabled]

/-- Settles O11: the listed choice runs in a block that has not faulted, since its agent has a step. -/
theorem enabledAgentTakesItsStep : Obligations.EnabledAgentTakesItsStep := by
  intro s rest wf
  have run {a : Agent} {c : Choice} (enabled : s.enabled a = true) (listed : s.agenda = c :: rest) :
      step s = settleOutcome (agentStep c { s with agenda := rest }) :=
    step_of_running wf (State.running_of_enabled enabled) listed
  refine ⟨fun enabled listed => ?timer, fun k v enabled listed => ?env, fun enabled listed => ?seq,
    fun enabled listed => ?sampler, fun op enabled listed => ?host⟩
  case timer => rw [run enabled listed, agentStep, stepIfEnabled, s.enabled_withAgenda, if_pos enabled]; rfl
  case env => rw [run enabled listed, agentStep, stepIfEnabled, s.enabled_withAgenda, if_pos enabled]; rfl
  case seq => rw [run enabled listed, agentStep, stepIfEnabled, s.enabled_withAgenda, if_pos enabled]; rfl
  case sampler =>
    rw [run enabled listed, agentStep,
      cooperativeStep_of_enabled (.inr rfl) ((s.enabled_withAgenda rest _).trans enabled)]
    rfl
  case host =>
    rw [step_of_cons listed]
    exact runChoice_host (s := { s with agenda := rest }) wf ((s.enabled_withAgenda rest _).trans enabled) op

/-- Settles O12: a waiting choice put back gives the state it was taken from, and a choice that passes gives the
state without it. -/
theorem sequencerGoesBeforeCooperativeSteps : Obligations.SequencerGoesBeforeCooperativeSteps := by
  intro s c rest wf running listed
  have run := step_of_running wf running listed
  have waiting : State.putBack { s with agenda := rest } c = s := by
    rw [State.putBack, ← listed]
  refine ⟨fun cooperative seq => ?first, fun a agent disabled noSeq => ?pass⟩
  case first =>
    have enabled := (s.enabled_withAgenda rest .seq).trans seq
    rcases cooperative with rfl | ⟨op, rfl⟩
    · rw [run, agentStep, cooperativeStep_of_seq enabled, waiting]
      rfl
    · rw [run, agentStep, cooperativeStep_of_seq enabled, waiting]
      rfl
  case pass =>
    have noStep := (s.enabled_withAgenda rest a).trans disabled
    have quiet := (s.enabled_withAgenda rest .seq).trans noSeq
    have passes : agentStep c { s with agenda := rest } = .next { s with agenda := rest } := by
      cases c with
      | reset rawA rawB => cases agent
      | timer => cases agent; rw [agentStep, stepIfEnabled, noStep]; rfl
      | seq => cases agent; rw [agentStep, stepIfEnabled, noStep]; rfl
      | env k v => cases agent; rw [agentStep, stepIfEnabled, noStep]; rfl
      | sampler => cases agent; rw [agentStep, cooperativeStep_of_neither quiet noStep]
      | host op => cases agent; rw [agentStep, cooperativeStep_of_neither quiet noStep]
    rw [run, passes]
    rfl

/-! ### The window (R70 to R76) -/

/-- Settles O7: an access is admitted at an aligned offset of the window, and an offset that is answered is one. -/
theorem onlyAlignedWordAccessesAreAdmitted : Obligations.OnlyAlignedWordAccessesAreAdmitted := by
  intro s addr n v
  refine ⟨?aligned, fun refused => ?_⟩
  case aligned =>
    rintro ⟨rfl, aligned, above, below⟩
    obtain ⟨off, rfl⟩ := Nat.exists_eq_add_of_le above
    rw [Nat.add_sub_cancel_left] at aligned ⊢
    exact accessOffset_of_aligned s.params (by omega) aligned
  cases access : accessOffset s.params addr n with
  | ok offset =>
    obtain ⟨width, above, below, aligned, -⟩ := accessOffset_ok access
    exact absurd ⟨width, aligned, above, below⟩ refused
  | error r =>
    refine ⟨r, ?_, ?_⟩
    · simp only [hostStep, hostRead, access]
    · simp only [hostStep, hostWrite, access]

theorem hostStep_read (s : State) {off : Nat} (inside : off < 0x40) (aligned : off % 4 = 0) :
    hostStep (.read (s.params.blockBase + off) 4) s =
      .next { s with readData := some (readReg s (windowReg off)) } := by
  simp only [hostStep, hostRead, accessOffset_of_aligned s.params inside aligned]

/-- A write to the first word of the window executes the word (R75). -/
theorem hostStep_write_cmd (s : State) (w : Word) :
    hostStep (.write s.params.blockBase 4 w) s = executeWord w s := by
  have access := accessOffset_of_aligned s.params (off := 0) (by decide) rfl
  rw [Nat.add_zero] at access
  simp only [hostStep, hostWrite, access]
  rfl

theorem windowReg_reserved {off : Nat} (past : 0x1C ≤ off) : windowReg off = .reserved := by
  unfold windowReg
  split
  iterate 7 omega
  rfl

/-- A row of the map is an aligned offset with the value of the register there (R71, R76). -/
theorem readReg_of_map {s : State} {off : Nat} {value : Word}
    (row : (off, value) ∈ [(0x00, 0), (0x04, s.result), (0x08, s.statusWord), (0x0C, s.btnA.pressCount),
        (0x10, s.btnB.pressCount), (0x14, s.rowOut), (0x18, s.colOut)] ∨
      (off % 4 = 0 ∧ 0x1C ≤ off ∧ off < 0x40 ∧ value = 0)) :
    off < 0x40 ∧ off % 4 = 0 ∧ readReg s (windowReg off) = value := by
  rcases row with listed | ⟨aligned, past, inside, rfl⟩
  · simp only [List.mem_cons, List.not_mem_nil, or_false, Prod.mk.injEq] at listed
    rcases listed with ⟨rfl, rfl⟩ | ⟨rfl, rfl⟩ | ⟨rfl, rfl⟩ | ⟨rfl, rfl⟩ | ⟨rfl, rfl⟩ | ⟨rfl, rfl⟩ | ⟨rfl, rfl⟩ <;>
      exact ⟨by decide, by decide, rfl⟩
  · rw [windowReg_reserved past]
    exact ⟨inside, aligned, rfl⟩

theorem windowByte_of_aligned (s : State) {off i : Nat} (aligned : off % 4 = 0) (inWord : i < 4) :
    windowByte s (off + i) = wordByte (readReg s (windowReg off)) i := by
  have word : windowReg (off + i) = windowReg off := by
    rw [windowReg, windowReg, show (off + i) / 4 = off / 4 by omega]
  rw [windowByte, word, show (off + i) % 4 = i by omega]

/-- Settles O8: the map row by row, the bytes of a word, and the two kinds of write. -/
theorem registerWindowReadsAndWrites : Obligations.RegisterWindowReadsAndWrites := by
  intro s value w off i
  refine ⟨fun row => ?read, hostStep_write_cmd s w,
    fun aligned later inside => hostStep_write_ignored s w (by omega) inside aligned⟩
  case read =>
    obtain ⟨inside, aligned, rfl⟩ := readReg_of_map row
    exact ⟨hostStep_read s inside aligned, windowByte_of_aligned s aligned⟩

/-! ### Command words (R75, R110) -/

theorem executeWord_of_decode {w : Word} {i : Instr} (decoded : decode w = .command i) (s : State) :
    executeWord w s = exec i s := by
  rw [executeWord, decoded]

/-- A write of a command's word to `CMD` where the HOST has a step runs the command. -/
theorem runChoice_command {s : State} {w : Word} {i : Instr} (wf : s.params.wellFormed = true)
    (enabled : s.enabled .host = true) (decoded : decode w = .command i) :
    runChoice (.host (.write s.params.blockBase 4 w)) s = settleOutcome (exec i s) := by
  rw [runChoice_host wf enabled, hostStep_write_cmd, executeWord_of_decode decoded]

/-- Settles O17: the choice is taken from the agenda in the first clause and was put there in the second. -/
theorem stepRunsTheDecodedCommand : Obligations.StepRunsTheDecodedCommand := by
  refine fun s w i rest wf enabled decoded => ⟨fun listed => ?_, ?_⟩
  · rw [step_of_cons listed]
    exact runChoice_command wf ((s.enabled_withAgenda rest _).trans enabled) decoded
  · rw [State.withFetchWord, tableWord_toNat, State.offerWord, step, State.nextChoice_putBack,
      State.dropChoice_putBack, runChoice_command wf enabled decoded]

/-- Settles O18: a command completes in a state of the invariant, which the check leaves as it is. -/
theorem stepIsTheCommandInInvariantStates : Obligations.StepIsTheCommandInInvariantStates := by
  intro s i inv enabled
  obtain ⟨t, done⟩ := exists_exec i s
  have run := (stepRunsTheDecodedCommand s (encode i) i [] inv.paramsOk enabled (decode_encode i)).2
  rw [run, done, settleOutcome, (inv.exec done).settle]

/-! ### DISP_NEW (R161) -/

/-- Settles O27: the two outcomes of the command, by whether the display has been constructed. -/
theorem dispNewConstructsTheDisplayOnce : Obligations.DispNewConstructsTheDisplayOnce :=
  ⟨decode_of_spells (o := .dispNew) rfl, fun _ =>
    ⟨fun off => if_neg (Bool.eq_false_iff.mp off), fun on => if_pos on⟩⟩

/-! ### The first failing check (R110, R271, R272) -/

/-- What every command reports: the code of its first failing check, an error's whole effect, and the operands
that code 4 is for. -/
def Reports (i : Instr) (s : State) : Prop :=
  ∃ t, exec i s = .next t ∧ t.statusErr = firstFailingCheck i s ∧
    (t.statusErr ≠ 0 → t = { s with statusErr := t.statusErr, result := 0 }) ∧
    (t.statusErr = 4 ↔ i.wellFormed = false)

theorem reports_of_complete {i : Instr} {s u : State} {answer : Word}
    (done : exec i s = .next (u.complete answer)) (passes : firstFailingCheck i s = 0)
    (inRange : i.wellFormed = true) : Reports i s :=
  ⟨_, done, passes.symm, fun error => absurd rfl error, by simp [inRange]⟩

theorem reports_of_error {i : Instr} {s : State} {e : ErrorCode} (done : exec i s = .next (s.cmdError e))
    (fails : firstFailingCheck i s = e.code) (range : e.code = 4 ↔ i.wellFormed = false) : Reports i s :=
  ⟨_, done, fails.symm, fun _ => rfl, range⟩

/-- The two image commands that name a cell check its two indices (R132, R133). -/
theorem reports_cell (row col : Nibble) (b : Byte) (s : State) :
    Reports (.imgWrite row col b) s ∧ Reports (.imgRead row col) s := by
  by_cases outside : 5 ≤ row.toNat ∨ 5 ≤ col.toNat
  · have range : cellOperandsOk row col = false := decide_eq_false (by omega)
    obtain ⟨write, read⟩ := exec_imgWrite_imgRead_of_ge outside b s
    exact ⟨reports_of_error write (if_pos outside) (iff_of_true rfl range),
      reports_of_error read (if_pos outside) (iff_of_true rfl range)⟩
  · have range : cellOperandsOk row col = true := decide_eq_true (by omega)
    exact ⟨reports_of_complete (exec_imgWrite_of_lt (by omega) (by omega) b s) (if_neg outside) range,
      reports_of_complete (exec_imgRead_of_lt (by omega) (by omega) s) (if_neg outside) range⟩

theorem reports_btnNew (h k : Nibble) (s : State) : Reports (.btnNew h k) s := by
  by_cases outside : 4 ≤ h.toNat ∨ 2 ≤ k.toNat
  · have range : (handleOperandOk h && buttonOperandOk k) = false := by
      simp only [handleOperandOk, buttonOperandOk, ← Bool.decide_and, decide_eq_false_iff_not]
      omega
    refine reports_of_error (e := .operandRange) ?_ (if_pos outside) (iff_of_true rfl range)
    rcases outside with slot | button
    · exact (exec_button_of_ge slot k s).1
    · exact exec_btnNew_of_button_ge h button s
  · have range : (handleOperandOk h && buttonOperandOk k) = true := by
      simp only [handleOperandOk, buttonOperandOk, ← Bool.decide_and, decide_eq_true_eq]
      omega
    obtain ⟨btn, button⟩ : ∃ btn, buttonIndex k = some btn := by
      rw [buttonIndex_eq]
      split_ifs
      · exact ⟨_, rfl⟩
      · exact ⟨_, rfl⟩
      · omega
    exact reports_of_complete (exec_btnNew_of_lt (by omega) button) (if_neg outside) range

/-- The two commands that read through a handle check its index and then that it is valid (R212, R213, R277 (a)). -/
theorem reports_handle (h : Nibble) (s : State) : Reports (.btnWasPressed h) s ∧ Reports (.btnIsPressed h) s := by
  by_cases inside : h.toNat < 4
  · have range : handleOperandOk h = true := decide_eq_true inside
    by_cases invalid : (s.handles[h.toNat]).valid = false
    · have check : (if hh : h.toNat < 4 then (if (s.handles[h.toNat]).valid = false then 5 else 0) else 4) =
          (5 : Byte) := by rw [dif_pos inside, if_pos invalid]
      obtain ⟨was, is⟩ := exec_button_of_invalid inside invalid
      exact ⟨reports_of_error was check (iff_of_false (by decide) (by simp [Instr.wellFormed, range])),
        reports_of_error is check (iff_of_false (by decide) (by simp [Instr.wellFormed, range]))⟩
    · have check : (if hh : h.toNat < 4 then (if (s.handles[h.toNat]).valid = false then 5 else 0) else 4) =
          (0 : Byte) := by rw [dif_pos inside, if_neg invalid]
      have valid : (s.handle ⟨h.toNat, inside⟩).valid = true := Bool.not_eq_false _ ▸ invalid
      exact ⟨reports_of_complete (exec_btnWasPressed_of_valid inside rfl valid) check range,
        reports_of_complete (exec_btnIsPressed_of_valid inside valid) check range⟩
  · have range : handleOperandOk h = false := decide_eq_false inside
    obtain ⟨-, was, is⟩ := exec_button_of_ge (Nat.le_of_not_lt inside) 0 s
    exact ⟨reports_of_error was (dif_neg inside) (iff_of_true rfl range),
      reports_of_error is (dif_neg inside) (iff_of_true rfl range)⟩

theorem reports_csEnter (s : State) : Reports .csEnter s := by
  by_cases full : s.csDepth = 255
  · exact reports_of_error (exec_csEnter_of_full (by rw [full]; rfl)) (if_pos full) (by decide)
  · exact reports_of_complete (exec_csEnter_of_lt (by bv_omega)) (if_neg full) rfl

theorem reports_csExit (s : State) : Reports .csExit s := by
  by_cases outside : s.csDepth = 0
  · exact reports_of_error (exec_csExit_of_zero (by rw [outside]; rfl)) (if_pos outside) (by decide)
  · exact reports_of_complete (exec_csExit_of_pos (by bv_omega)) (if_neg outside) rfl

/-- DISP_NEW and SHOW check whether the display has been constructed (R161, R162). -/
theorem reports_display (s : State) : Reports .dispNew s ∧ Reports .showImage s := by
  obtain ⟨-, dispNew⟩ := dispNewConstructsTheDisplayOnce
  by_cases on : s.dispInit = true
  · exact ⟨reports_of_error (e := .resourceAlreadyClaimed) ((dispNew s).2 on) (if_pos on) (by decide),
      reports_of_complete (exec_showImage_of_on on) (if_neg (by simp [on])) rfl⟩
  · have off := Bool.eq_false_iff.mpr on
    exact ⟨reports_of_complete (u := s.constructDisplay) ((dispNew s).1 off) (if_neg on) rfl,
      reports_of_error (exec_showImage_of_off off) (if_pos off) (by decide)⟩

/-- Settles O19: command by command, from the equations of each. -/
theorem firstFailingCheckIsReported : Obligations.FirstFailingCheckIsReported := by
  intro i s
  change Reports i s
  cases i with
  | nop => exact reports_of_complete (u := s) rfl rfl rfl
  | dispNew => exact (reports_display s).1
  | showImage => exact (reports_display s).2
  | imgClear => exact reports_of_complete (u := { s with stage := zeroImage }) rfl rfl rfl
  | imgWrite row col b => exact (reports_cell row col b s).1
  | imgRead row col => exact (reports_cell row col 0 s).2
  | imgShiftLeft n =>
    exact reports_of_complete (u := { s with stage := imageShiftLeft s.stage (shiftCount n) }) rfl rfl rfl
  | btnNew h k => exact reports_btnNew h k s
  | btnWasPressed h => exact (reports_handle h s).1
  | btnIsPressed h => exact (reports_handle h s).2
  | csEnter => exact reports_csEnter s
  | csExit => exact reports_csExit s


/-! ### Reset and fault (R60, R274, R300) -/

/-- A reset gives the reset state, which is in order (R301). -/
theorem step_of_reset {s : State} {rawA rawB : Bool} (wf : s.params.wellFormed = true)
    (chosen : s.nextChoice = .reset rawA rawB) : step s = .next (s.dropChoice.resetEvent rawA rawB) := by
  have reset : (s.dropChoice.resetEvent rawA rawB).Inv :=
    (State.resetWith_inv (s.dropChoice_params.symm ▸ wf) rawA rawB).frame (Nat.zero_le 6)
  rw [step, chosen, runChoice, if_neg (by simp [wf]), if_neg (by simp [Choice.agent]), agentStep,
    settleOutcome, reset.settle]

/-- A faulted block answers every choice of an agent with its reason (R60). -/
theorem step_of_fault {s : State} (wf : s.params.wellFormed = true) (fault : s.fault = true)
    (agent : s.nextChoice.agent ≠ none) : step s = .fault s.stopReason := by
  have chosen := Option.isSome_iff_ne_none.mpr agent
  rw [step, runChoice, if_neg (by simp [wf]), if_pos (by simp [chosen, fault]), State.stopReason,
    State.stopReason, s.dropChoice_faultReason]

theorem State.settle_of_broken {s : State} (running : s.fault = false) (broken : s.contractHolds = false) :
    s.settle = s.raiseFault .invariantBroken := by
  rw [State.settle, running, broken]
  rfl

/-- An input change is outside what R61 speaks of. -/
theorem contractHolds_envStep (k : ButtonId) (v : Bool) (s : State) (rest : List Choice) :
    (envStep k v { s with agenda := rest }).contractHolds = s.contractHolds := by
  cases k <;> rfl

theorem fault_envStep (k : ButtonId) (v : Bool) (s : State) (rest : List Choice) :
    (envStep k v { s with agenda := rest }).fault = s.fault := by
  cases k <;> rfl

/-- Settles O31: the fault of R169, the check after an input change, and the two kinds of choice of a faulted
block. -/
theorem contractViolationsStopTheBlock : Obligations.ContractViolationsStopTheBlock := by
  refine ⟨fun s main outside => ?row, fun s k v rest wf running broken listed => ?check, fun s fault wf =>
    ⟨step_of_fault wf fault, fun rawA rawB chosen => ⟨_, step_of_reset wf chosen, rfl, rfl⟩⟩⟩
  case row =>
    rw [seqStep_of_main main]
    exact if_pos outside
  case check =>
    obtain ⟨-, env, -⟩ := enabledAgentTakesItsStep s rest wf
    rw [env k v (s.enabled_env_iff.mpr running) listed, State.settle_of_broken]
    · rfl
    · rw [fault_envStep, running]
    · rw [contractHolds_envStep, broken]

/-- Every register of a block just reset reads 0 (R71, R301). -/
theorem readReg_resetEvent (s : State) (rawA rawB : Bool) (reg : WindowReg) :
    readReg (s.resetEvent rawA rawB) reg = 0 := by
  obtain ⟨rowOut, colOut⟩ := State.pinViews_of_off (s := s.resetEvent rawA rawB) rfl
  cases reg with
  | rowOut => exact rowOut
  | colOut => exact colOut
  | status =>
    change (0 : BitVec 8) ++ (0 : BitVec 8) ++ (0 : BitVec 5) ++ BitVec.ofBool false ++ BitVec.ofBool false ++
      BitVec.ofBool false ++ (0 : BitVec 8) = 0
    decide
  | cmd => rfl
  | result => rfl
  | pressCountA => rfl
  | pressCountB => rfl
  | reserved => rfl

/-- Settles O56: the reset state keeps the parameters, what was read and what the outside has chosen. -/
theorem resetSetsEveryElement : Obligations.ResetSetsEveryElement := by
  intro s rawA rawB wf chosen
  refine ⟨_, step_of_reset wf chosen, ?_, State.irqLine_of_disabled rfl rfl rfl,
    readReg_resetEvent _ rawA rawB, fun r c => rfl⟩
  rw [State.resetEvent, s.dropChoice_params, s.dropChoice_readData]
  rfl

end Sys2Proof.Machine
end

section
/-! A pass of the sequencer phase by phase (41_display.md sections 4 and 5): which LEDs the MAIN phase leaves on, the
deadline that follows, the return to IDLE without ticks (R168, R171, R173, R175), and what a pass owns (R278). -/

namespace Sys2Proof.Machine

/-! ### The MAIN phase (R168, R175) -/

/-- Where the row of the counter is current, its pin is high, no entry that is not due is past, and exactly the
entries from `STEP_IDX` on are lit. A row that is not current is put in that order by the transition to it. -/
def State.InStep (s : State) : Prop :=
  s.curRow = some (derivedRow s.params s.count) →
    s.rowPin.getD (derivedRow s.params s.count) false = true ∧
    s.stepIdx ≤ s.currentSchedule.countP (fun e => decide (e.time.toNat ≤ s.count % s.params.tpr)) ∧
    ∀ i (hi : i < s.currentSchedule.length),
      s.colOn.getD s.currentSchedule[i].col false = decide (s.stepIdx ≤ i)

/-- The later, the more entries are due. -/
theorem countP_due_mono (row : RowSchedule) {now later : Nat} (le : now ≤ later) :
    row.countP (fun e => decide (e.time.toNat ≤ now)) ≤ row.countP fun e => decide (e.time.toNat ≤ later) :=
  List.countP_mono_left fun _ _ due => decide_eq_true ((of_decide_eq_true due).trans le)

theorem State.inStep_of_ne {s : State} (other : s.curRow ≠ some (derivedRow s.params s.count)) : s.InStep :=
  fun current => absurd current other

theorem State.rowSelected_of_current {s : State} (current : s.curRow = some (derivedRow s.params s.count)) :
    s.rowSelected = s := stepThree_of_current current

section MainPhase

variable {s : State} (inv : s.Inv) (main : s.seqPhase = .main)
include inv main

/-- Between steps 3 and 4 the selected row is in step, by a transition or from before (R168, R170). -/
theorem State.InStep.rowSelected (inStep : s.InStep) :
    s.rowSelected.rowPin.getD (derivedRow s.params s.count) false = true ∧ s.rowSelected.stepIdx ≤ s.dueCount ∧
      ∀ i (hi : i < s.rowSelected.currentSchedule.length),
        s.rowSelected.colOn.getD s.rowSelected.currentSchedule[i].col false =
          decide (s.rowSelected.stepIdx ≤ i) := by
  by_cases current : s.curRow = some (derivedRow s.params s.count)
  · unfold State.dueCount
    rw [State.rowSelected_of_current current]
    exact inStep current
  · have hd : derivedRow s.params s.count < s.params.rows := inv.derivedRow_lt_of_main main
    have transition : s.rowSelected = rowTransition (derivedRow s.params s.count) s := stepThree_of_ne current
    have schedule : s.rowSelected.currentSchedule =
        schedRow (rowTransition (derivedRow s.params s.count) s).active (derivedRow s.params s.count) := by
      rw [currentSchedule_rowSelected, transition]
      rfl
    have sorted := ((rowOk_iff _ _).mp (rowOk_rowSelected inv main)).2.1
    have index : s.rowSelected.stepIdx =
        s.rowSelected.currentSchedule.countP fun e => decide (e.time.toNat ≤ 0) := by
      rw [schedule, transition]
      simpa only [Nat.le_zero] using (lightColumns_rowTransition inv hd).2
    refine ⟨?_, ?_, fun i hi => ?_⟩
    · rw [transition, getD_rowPin_rowTransition inv hd]
      exact decide_eq_true rfl
    · rw [index]
      exact countP_due_mono _ (Nat.zero_le _)
    · have lit : ∀ e ∈ s.rowSelected.currentSchedule,
          s.rowSelected.colOn.getD e.col false = decide (e.time.toNat ≠ 0) := by
        rw [schedule, transition]
        exact fun e mem => getD_colOn_rowTransition inv hd mem
      have due := due_iff_lt_countP 0 _ sorted i hi
      rw [← index] at due
      rw [lit _ (List.getElem_mem hi), decide_eq_decide]
      omega

/-- A MAIN phase in step leaves exactly the entries not yet due lit, and the others past (R175). -/
theorem State.InStep.mainPhase (inStep : s.InStep) : (seqStep s).stepIdx = s.dueCount ∧
    ∀ i (hi : i < s.rowSelected.currentSchedule.length),
      (seqStep s).colOn.getD s.rowSelected.currentSchedule[i].col false = decide (s.dueCount ≤ i) := by
  obtain ⟨-, notAhead, lit⟩ := inStep.rowSelected inv main
  obtain ⟨index, columns⟩ := seqStep_main_spec inv main
  refine ⟨index.trans (max_eq_right notAhead), fun i hi => ?_⟩
  rw [columns i hi, lit i hi]
  split
  · exact (decide_eq_false (by omega)).symm
  · rw [decide_eq_decide]
    omega

end MainPhase

/-- Settles O33: a row that is not current is in step vacuously, and the due entries are the first of the row. -/
theorem mainAfterTransitionLightsTheUndueEntries : Obligations.MainAfterTransitionLightsTheUndueEntries := by
  intro s inv main other
  obtain ⟨index, columns⟩ := (State.inStep_of_ne other).mainPhase inv main
  simp only [currentSchedule_seqStep_main inv main, index]
  refine ⟨by rw [seqStep_main_eq inv main], curRow_seqStep_main inv main, rfl, fun i hi => ⟨columns i hi, ?_⟩⟩
  have due := due_iff_lt_dueCount inv main hi
  omega

/-- Settles O34: in the current row step 3 does nothing, and step 4 passes the due entries from `STEP_IDX` on. -/
theorem mainInTheCurrentRowTurnsOffTheDueEntries : Obligations.MainInTheCurrentRowTurnsOffTheDueEntries := by
  intro s inv main current
  have selected : s.rowSelected = s := State.rowSelected_of_current current
  have frame : seqStep s = { s with
      colOn := (seqStep s).colOn, stepIdx := (seqStep s).stepIdx, seqPhase := .program } := by
    rw [seqStep_main_eq inv main, selected]
    rfl
  obtain ⟨index, columns⟩ := seqStep_main_spec inv main
  have within := (inv.mainPhase main).stepIdx_le
  have due := fun i => due_iff_lt_dueCount inv main (i := i)
  rw [seqStep_params] at within
  simp only [selected] at index columns due
  refine ⟨frame, by omega, within, fun i hi => ?_⟩
  have dueI := due i hi
  rw [columns i hi]
  refine ⟨fun low high => ⟨by omega, if_pos (by omega)⟩, fun stops => by omega, fun outside => if_neg (by omega)⟩

/-! ### The PROGRAM phase (R171) -/

/-- Settles O36: the deadline the phase writes is one of the two, since a row in order has one entry per column. -/
theorem programPhaseWritesTheNextDeadline : Obligations.ProgramPhaseWritesTheNextDeadline := by
  intro s r inv program row
  have len := length_of_rowOk (rowOk_schedRow inv.schedules.1 (inv.rowLegal r row))
  obtain ⟨v, deadline, cc0, -⟩ := exists_deadline_cc0 inv program row
  rw [cc0]
  refine ⟨?frame, fun inRow => ?entry, len, fun past => ?rowEnd⟩
  case frame =>
    rw [seqStep_of_program program, programPhase_of_deadline row deadline]
  case entry =>
    rcases nextDeadline_cases deadline with ⟨past, -⟩ | ⟨e, entry, rfl⟩
    · omega
    · rw [List.getElem?_eq_getElem inRow] at entry
      rw [Option.some.inj entry]
  case rowEnd =>
    rcases nextDeadline_cases deadline with ⟨-, rfl⟩ | ⟨e, entry, -⟩
    · rfl
    · rw [List.getElem?_eq_none (by omega)] at entry
      cases entry

/-! ### A pass without ticks (R173) -/

theorem State.Inv.seqSteps {s : State} (inv : s.Inv) (on : s.dispInit = true) (k : Nat) : (seqSteps k s).Inv := by
  induction k generalizing s with
  | zero => exact inv
  | succ k ih => exact ih (inv.seqStep on) ((seqStep_dispInit s).trans on)

/-- From the MAIN phase on, a pass without ticks programs the next deadline and returns: it lies above the counter,
so the re-check finds nothing to do (R172, R177). -/
theorem seqSteps_of_main {s : State} (inv : s.Inv) (main : s.seqPhase = .main) : ∃ cc0 : BitVec 32,
    nextDeadline (derivedRow s.params s.count) (seqStep s) = some cc0.toNat ∧
      seqSteps 3 s = { seqStep s with cc0 := cc0, trun := true, seqPhase := .idle } := by
  have next := inv.mainPhase main
  have program : (seqStep s).seqPhase = .program := by rw [seqStep_main_eq inv main]
  have row := curRow_seqStep_main inv main
  obtain ⟨v, deadline, cc0, -⟩ := exists_deadline_cc0 next program row
  have ahead := (compareValueIsAboveTheCapture s (seqStep s) _ inv main next program rfl rfl rfl rfl row).1
  have programmed : seqStep (seqStep s) =
      { seqStep s with cc0 := BitVec.ofNat 32 v, trun := true, seqPhase := .check } := by
    rw [seqStep_of_program program, programPhase_of_deadline row deadline]
  have check : (seqStep (seqStep s)).seqPhase = .check := by rw [programmed]
  have returns : seqStep (seqStep (seqStep s)) = (seqStep (seqStep s)).interruptReturn := by
    rw [seqStep_of_check check]
    exact checkPhase_of_ahead_or_pending (.inl (by rwa [seqStep_tcount, seqStep_tcount]))
  refine ⟨(seqStep (seqStep s)).cc0, by rw [cc0]; exact deadline, ?_⟩
  change seqStep (seqStep (seqStep s)) = _
  rw [returns, programmed]
  rfl

theorem seqPhase_seqSteps_of_main {s : State} (inv : s.Inv) (main : s.seqPhase = .main) :
    (seqSteps 3 s).seqPhase = .idle := by
  obtain ⟨cc0, -, pass⟩ := seqSteps_of_main inv main
  rw [pass]

theorem seqPhase_seqSteps_of_entry {s : State} (inv : s.Inv) (entry : s.seqPhase = .entry) :
    (seqSteps 4 s).seqPhase = .idle := by
  have on := inv.phase (by rw [entry]; nofun)
  exact seqPhase_seqSteps_of_main (inv.seqStep on) (by rw [seqStep_of_entry entry]; rfl)

/-- A CHECK phase returns at once or by one more pass (R172). -/
theorem seqPhase_seqSteps_of_check {s : State} (inv : s.Inv) (check : s.seqPhase = .check) :
    ∃ k ≤ 5, (seqSteps k s).seqPhase = .idle := by
  have on := inv.phase (by rw [check]; nofun)
  by_cases reached : s.cc0.toNat ≤ s.tcount.toNat ∧ s.irqLine = false
  · refine ⟨5, le_rfl, seqPhase_seqSteps_of_entry (inv.seqStep on) ?_⟩
    rw [seqStep_of_check check, checkPhase_of_reached reached]
    rfl
  · refine ⟨1, by decide, ?_⟩
    change (seqStep s).seqPhase = .idle
    rw [seqStep_of_check check, checkPhase, if_neg reached]
    rfl

theorem seqPhase_seqStep_of_program {s : State} (inv : s.Inv) (program : s.seqPhase = .program) :
    (seqStep s).seqPhase = .check := by
  obtain ⟨r, row⟩ := Option.ne_none_iff_exists'.mp (inv.programmable program)
  obtain ⟨v, deadline⟩ := exists_nextDeadline inv row
  rw [seqStep_of_program program, programPhase_of_deadline row deadline]

/-- Settles O38: the count of steps left in each phase, where PROGRAM is one step before CHECK. -/
theorem passWithoutTicksReturns : Obligations.PassWithoutTicksReturns := by
  intro s inv
  cases phase : s.seqPhase with
  | idle => exact ⟨0, by decide, phase, inv⟩
  | entry =>
    have on := inv.phase (by rw [phase]; nofun)
    exact ⟨4, by decide, seqPhase_seqSteps_of_entry inv phase, inv.seqSteps on 4⟩
  | main =>
    have on := inv.phase (by rw [phase]; nofun)
    exact ⟨3, by decide, seqPhase_seqSteps_of_main inv phase, inv.seqSteps on 3⟩
  | program =>
    have on := inv.phase (by rw [phase]; nofun)
    obtain ⟨k, few, idle⟩ :=
      seqPhase_seqSteps_of_check (inv.seqStep on) (seqPhase_seqStep_of_program inv phase)
    exact ⟨k + 1, by omega, idle, inv.seqSteps on (k + 1)⟩
  | check =>
    have on := inv.phase (by rw [phase]; nofun)
    obtain ⟨k, few, idle⟩ := seqPhase_seqSteps_of_check inv phase
    exact ⟨k, by omega, idle, inv.seqSteps on k⟩

/-! ### What the sequencer owns (R246, R278, R279) -/

/-- Step 3 changes what a transition changes and nothing else (R170). -/
theorem stepThree_frame (d : Nat) (s : State) : stepThree d s = { s with
    rowPin := (stepThree d s).rowPin, colOn := (stepThree d s).colOn, curRow := (stepThree d s).curRow,
    stepIdx := (stepThree d s).stepIdx, active := (stepThree d s).active } := by
  unfold stepThree
  split <;> rfl

/-- In a state of the invariant no phase raises a fault, so nothing that a fault writes changes (R274). -/
theorem State.Inv.seqStep_noFault {s : State} (inv : s.Inv) : (Machine.seqStep s).statusErr = s.statusErr ∧
    (Machine.seqStep s).fault = s.fault ∧ (Machine.seqStep s).faultReason = s.faultReason := by
  cases phase : s.seqPhase with
  | idle => rw [seqStep_of_idle phase]; exact ⟨rfl, rfl, rfl⟩
  | entry => rw [seqStep_of_entry phase]; exact ⟨rfl, rfl, rfl⟩
  | main =>
    rw [seqStep_main_eq inv phase, State.rowSelected, stepThree_frame]
    exact ⟨rfl, rfl, rfl⟩
  | program =>
    obtain ⟨r, row⟩ := Option.ne_none_iff_exists'.mp (inv.programmable phase)
    obtain ⟨v, deadline⟩ := exists_nextDeadline inv row
    rw [seqStep_of_program phase, programPhase_of_deadline row deadline]
    exact ⟨rfl, rfl, rfl⟩
  | check => rw [seqStep_of_check phase, checkPhase_frame]; exact ⟨rfl, rfl, rfl⟩

/-- The order of the phases (R278, R279). -/
abbrev PhaseOrder (old new : SeqPhase) : Prop :=
  (old, new) ∈ [(SeqPhase.idle, SeqPhase.entry), (.entry, .main), (.main, .program), (.program, .check),
    (.check, .idle), (.check, .entry)]

theorem State.Inv.phaseOrder {s : State} (inv : s.Inv) : PhaseOrder s.seqPhase (Machine.seqStep s).seqPhase := by
  cases phase : s.seqPhase with
  | idle => rw [seqStep_of_idle phase]; exact show PhaseOrder .idle .entry by decide
  | entry => rw [seqStep_of_entry phase]; exact show PhaseOrder .entry .main by decide
  | main => rw [seqStep_main_eq inv phase]; exact show PhaseOrder .main .program by decide
  | program => rw [seqPhase_seqStep_of_program inv phase]; decide
  | check =>
    rw [seqStep_of_check phase, checkPhase]
    split
    · exact show PhaseOrder .check .entry by decide
    · exact show PhaseOrder .check .idle by decide

theorem exec_seqPhase {i : Instr} {s t : State} (done : exec i s = .next t) : t.seqPhase = s.seqPhase := by
  rcases exec_cases done with ⟨_, _, rfl⟩ | ⟨_, rfl⟩ | ⟨_, rfl⟩ | ⟨_, _, rfl⟩ | ⟨_, _, rfl⟩ | ⟨_, _, rfl⟩ |
    ⟨_, _, rfl⟩ | ⟨_, _, rfl⟩ <;> rfl

theorem hostStep_seqPhase {op : HostOp} {s t : State} (done : hostStep op s = .next t) :
    t.seqPhase = s.seqPhase := by
  rcases hostStep_cases done with ⟨_, _, _, rfl⟩ | ⟨_, _, _, rfl | rfl | ⟨_, _, ran⟩⟩
  · rfl
  · rfl
  · rfl
  · exact exec_seqPhase ran

/-- A choice of SEQ, or a waiting one of HOST or SAMPLER, lets the sequencer step where it has one (R82). -/
theorem State.actor_eq_seq {s : State} (enabled : s.enabled .seq = true)
    (chosen : s.nextChoice = .seq ∨ s.nextChoice = .sampler ∨ ∃ op, s.nextChoice = .host op) :
    s.actor = some .seq := by
  rcases chosen with seq | sampler | ⟨op, host⟩
  · simp [State.actor, seq, Choice.agent, enabled]
  · simp [State.actor, sampler, Choice.agent, enabled]
  · simp [State.actor, host, Choice.agent, enabled]

/-- An agent's step leaves the phase, or is the sequencer's and moves it on. -/
theorem AgentStep.phase {s u : State} (inv : s.Inv) (stepped : AgentStep s u) :
    u.seqPhase = s.seqPhase ∨ (s.actor = some .seq ∧ PhaseOrder s.seqPhase u.seqPhase) := by
  have order := inv.dropChoice.phaseOrder
  have orderWaiting := (inv.dropChoice.putBack s.nextChoice).phaseOrder
  rw [s.dropChoice_seqPhase] at order
  rw [State.putBack_seqPhase, s.dropChoice_seqPhase] at orderWaiting
  cases stepped with
  | timer _ _ taken => rw [taken]; exact .inl s.dropChoice_seqPhase
  | sampler _ _ taken => rw [taken]; exact .inl s.dropChoice_seqPhase
  | env k v _ _ taken => rw [taken]; cases k <;> exact .inl s.dropChoice_seqPhase
  | host op _ _ taken => exact .inl ((hostStep_seqPhase taken).trans s.dropChoice_seqPhase)
  | pass taken => rw [taken]; exact .inl s.dropChoice_seqPhase
  | seq chosen on taken => rw [taken]; exact .inr ⟨State.actor_eq_seq on (.inl chosen), order⟩
  | seqFirst chosen on taken => rw [taken]; exact .inr ⟨State.actor_eq_seq on (.inr chosen), orderWaiting⟩

/-- Settles O39: the frame of a sequencer step less what a fault writes, and the phase over each agent's step. -/
theorem sequencerOwnsItsStateAndPhases : Obligations.SequencerOwnsItsStateAndPhases := by
  refine ⟨fun s inv => ?_, fun s t inv stepped agent changed => ?_⟩
  · obtain ⟨statusErr, fault, faultReason⟩ := inv.seqStep_noFault
    have frame := seqStep_frame s
    rwa [statusErr, fault, faultReason] at frame
  · rcases (step_cases stepped).2 with ⟨rawA, rawB, reset, -⟩ | ⟨-, -, u, agentStep, rfl⟩
    · exact absurd (by rw [reset]; rfl) agent
    · rw [(inv.agentStep agentStep).settle] at changed ⊢
      exact (agentStep.phase inv).resolve_left changed

end Sys2Proof.Machine
end

section
/-! Ideal runs of the display (41_display.md section 5): a pass puts a display in step into the rendering state, an
ideal tick keeps it there (R174), and so each LED is lit for its time and a published schedule becomes active within
a frame (R178). -/

namespace Sys2Proof.Machine

/-! ### A pass renders (R168, R171, R175) -/

/-- What the sequencer's step keeps, any number of its steps keep. -/
theorem seqSteps_keeps {α : Type} (f : State → α) (kept : ∀ s, f (seqStep s) = f s) (k : Nat) (s : State) :
    f (seqSteps k s) = f s := by
  induction k generalizing s with
  | zero => rfl
  | succ k ih => exact (ih (seqStep s)).trans (kept s)

@[simp] theorem passOf_params (s : State) : (passOf s).params = s.params :=
  seqSteps_keeps State.params seqStep_params 5 s
@[simp] theorem passOf_tcount (s : State) : (passOf s).tcount = s.tcount :=
  seqSteps_keeps State.tcount seqStep_tcount 5 s
@[simp] theorem passOf_pending (s : State) : (passOf s).pending = s.pending :=
  seqSteps_keeps State.pending seqStep_pending 5 s
@[simp] theorem passOf_stage (s : State) : (passOf s).stage = s.stage :=
  seqSteps_keeps State.stage seqStep_stage 5 s

/-- The MAIN phase reads and writes no request (R49, R168). -/
theorem irqLine_seqStep_main {s : State} (inv : s.Inv) (main : s.seqPhase = .main) :
    (seqStep s).irqLine = s.irqLine := by
  rw [seqStep_main_eq inv main, State.rowSelected, stepThree_frame]
  rfl

/-- The rest of a pass from a MAIN phase in step, with no request pending and no tick in between. -/
theorem State.InStep.rendering_of_main {s : State} (inStep : s.InStep) (inv : s.Inv) (main : s.seqPhase = .main)
    (unmasked : s.csDepth = 0) (quiet : s.irqLine = false) : (seqSteps 3 s).Rendering := by
  have on := inv.phase (by rw [main]; nofun)
  have renders := inv.seqSteps on 3
  obtain ⟨cc0, deadline, pass⟩ := seqSteps_of_main inv main
  obtain ⟨pin, -, -⟩ := inStep.rowSelected inv main
  obtain ⟨index, columns⟩ := inStep.mainPhase inv main
  have sameRow : derivedRow (seqStep s).params (seqStep s).count = derivedRow s.params s.count := by
    rw [State.count, seqStep_params, seqStep_tcount, State.count]
  have sameTime : rowLocal (seqStep s).params (seqStep s).count = s.tcount.toNat % s.params.tpr := by
    rw [State.count, seqStep_params, seqStep_tcount, rowLocal_eq_mod]
  have row : (seqStep s).curRow = some (derivedRow (seqStep s).params (seqStep s).count) :=
    sameRow ▸ curRow_seqStep_main inv main
  have past : (seqStep s).stepIdx = (seqStep s).currentSchedule.countP
      fun e => decide (e.time.toNat ≤ rowLocal (seqStep s).params (seqStep s).count) := by
    rw [currentSchedule_seqStep_main inv main, sameTime]
    exact index
  have lit : ∀ e ∈ (seqStep s).currentSchedule,
      (seqStep s).colOn.getD e.col false =
        decide (rowLocal (seqStep s).params (seqStep s).count < e.time.toNat) := by
    rw [currentSchedule_seqStep_main inv main, sameTime]
    intro e mem
    obtain ⟨i, hi, rfl⟩ := List.getElem_of_mem mem
    have due := due_iff_lt_dueCount inv main hi
    rw [columns i hi, decide_eq_decide]
    omega
  have pin' : (seqStep s).rowPin.getD (derivedRow (seqStep s).params (seqStep s).count) false = true := by
    rw [sameRow, seqStep_main_eq inv main]
    exact pin
  rw [← sameRow] at deadline
  rw [pass] at renders ⊢
  exact {
    inv := renders
    constructed := (seqStep_dispInit s).trans on
    counting := rfl
    idle := rfl
    unmasked := (seqStep_csDepth s).trans unmasked
    quiet := (irqLine_seqStep_main inv main).trans quiet
    row := row
    past := past
    columns := lit
    pin := pin'
    deadline := deadline }

/-- The take and the ENTRY phase bring an idle handler to MAIN with every request cleared (R166, R167). -/
theorem passOf_eq {s : State} (idle : s.seqPhase = .idle) : passOf s = seqSteps 3 (entryPhase s) := by
  change seqSteps 3 (seqStep (seqStep s)) = _
  rw [seqStep_of_idle idle, seqStep_of_entry rfl]
  rfl

section Pass

variable {s : State} (inv : s.Inv) (on : s.dispInit = true) (idle : s.seqPhase = .idle)
include inv on idle

/-- The whole pass of a display in step. -/
theorem State.InStep.rendering_passOf (inStep : s.InStep) (unmasked : s.csDepth = 0) : (passOf s).Rendering := by
  have entered : (entryPhase s).Inv := inv.enterPhase on (by nofun)
  have inStep' : (entryPhase s).InStep := inStep
  rw [passOf_eq idle]
  exact inStep'.rendering_of_main entered rfl unmasked (irqLine_entryPhase s)

/-- The swap: a pass copies `PENDING` to `ACTIVE` exactly where it makes row 0 current (R163, R170). -/
theorem active_passOf : (passOf s).active =
    if derivedRow s.params s.count = 0 ∧ s.curRow ≠ some 0 then s.pending else s.active := by
  have entered : (entryPhase s).Inv := inv.enterPhase on (by nofun)
  obtain ⟨cc0, -, pass⟩ := seqSteps_of_main entered rfl
  rw [passOf_eq idle, pass]
  change (seqStep (entryPhase s)).active = _
  rw [active_seqStep_main entered rfl]
  change (stepThree (derivedRow s.params s.count) (entryPhase s)).active = _
  by_cases current : s.curRow = some (derivedRow s.params s.count)
  · rw [stepThree_of_current (s := entryPhase s) current, if_neg fun ⟨first, other⟩ => other (first ▸ current)]
    rfl
  · rw [stepThree_of_ne (s := entryPhase s) current]
    change (if derivedRow s.params s.count = 0 then s.pending else s.active) = _
    by_cases first : derivedRow s.params s.count = 0
    · rw [if_pos first, if_pos ⟨first, first ▸ current⟩]
    · rw [if_neg first, if_neg fun ⟨zero, _⟩ => first zero]

end Pass

/-! ### The rendering state (R174) -/

/-- The counter is the start of the derived row and the row-local time (R169). -/
theorem State.count_eq (s : State) :
    s.count = derivedRow s.params s.count * s.params.tpr + rowLocal s.params s.count := by
  rw [rowLocal_eq_mod, derivedRow, Nat.mul_comm, Nat.div_add_mod]

section Rendering

variable {s : State} (r : s.Rendering)
include r

theorem State.Rendering.count_lt : s.count < s.params.tpf := (r.inv.timer r.constructed).1

theorem State.Rendering.derivedRow_lt : derivedRow s.params s.count < s.params.rows :=
  r.inv.derivedRow_lt r.constructed

theorem State.Rendering.rowOk : rowOk s.params s.currentSchedule = true :=
  rowOk_schedRow r.inv.schedules.1 r.derivedRow_lt

theorem State.Rendering.sorted : s.currentSchedule.Pairwise fun x y => x.time.toNat ≤ y.time.toNat :=
  ((rowOk_iff _ _).mp r.rowOk).2.1

/-- The past entries are the due ones. -/
theorem State.Rendering.due_iff {i : Nat} (hi : i < s.currentSchedule.length) :
    s.currentSchedule[i].time.toNat ≤ rowLocal s.params s.count ↔ i < s.stepIdx := by
  rw [r.past]
  exact due_iff_lt_countP _ _ r.sorted i hi

/-- No request is pending, and both compare events are enabled, so neither has happened (R46, R49). -/
theorem State.Rendering.noEvents : s.ev0 = false ∧ s.ev1 = false ∧ s.swpend = false := by
  obtain ⟨-, inten0, inten1⟩ := r.inv.armed r.constructed
  have quiet := r.quiet
  simpa [State.irqLine, inten0, inten1, and_assoc] using quiet

/-- Channel 0 holds the end of the row, or the due time of the first entry not yet past (R171). -/
theorem State.Rendering.nextDeadline_spec :
    (s.params.cols ≤ s.stepIdx ∧
        s.cc0.toNat = derivedRow s.params s.count * s.params.tpr + s.params.tpr) ∨
      ∃ hi : s.stepIdx < s.currentSchedule.length,
        s.cc0.toNat = derivedRow s.params s.count * s.params.tpr + s.currentSchedule[s.stepIdx].time.toNat := by
  rcases nextDeadline_cases r.deadline with rowEnd | ⟨e, entry, value⟩
  · exact .inl rowEnd
  · obtain ⟨hi, rfl⟩ := List.getElem?_eq_some_iff.mp entry
    exact .inr ⟨hi, value⟩

/-! ### One tick (R165, R174) -/

theorem State.Rendering.count_timerTick :
    (timerTick s).count = if s.count + 1 = s.params.tpf then 0 else s.count + 1 :=
  r.inv.timerTick_count r.constructed

/-- A tick requests the interrupt at the wrap and at the deadline, and at no other value. -/
theorem State.Rendering.irqLine_timerTick : (timerTick s).irqLine = true ↔
    s.count + 1 = s.params.tpf ∨ s.count + 1 = s.cc0.toNat := by
  obtain ⟨-, -, counts⟩ := timerTickCountsAndMatches
  obtain ⟨-, ev1, ev0⟩ := counts s r.inv r.constructed
  obtain ⟨-, inten0, inten1⟩ := r.inv.armed r.constructed
  obtain ⟨noEv0, noEv1, noSwpend⟩ := r.noEvents
  have events : (timerTick s).irqLine = ((timerTick s).ev0 && s.inten0 || (timerTick s).ev1 && s.inten1 || s.swpend) :=
    rfl
  rw [events, ev0, ev1, inten0, inten1, noEv0, noEv1, noSwpend]
  simp [State.count, or_comm]

theorem State.Rendering.take_timerTick : (timerTick s).take = (timerTick s).irqLine := by
  have idle : (timerTick s).seqIdle = true := (State.seqIdle_iff _).mpr r.idle
  have unmasked : (timerTick s).unmasked = true := (State.unmasked_iff _).mpr r.unmasked
  rw [State.take, idle, unmasked, Bool.true_and, Bool.and_true]

/-- The tick leaves the first row only for the second, and enters it at the wrap only. -/
theorem State.Rendering.derivedRow_timerTick :
    (derivedRow s.params (timerTick s).count = 0 ∧ s.curRow ≠ some 0) ↔ s.count + 1 = s.params.tpf := by
  have tpr := Params.tpr_pos r.inv.paramsOk
  have frame : s.params.tpr + s.params.tpr ≤ s.params.tpf := by
    have := s.params.row_end_le s.params.one_lt_rows
    omega
  rw [r.row, r.count_timerTick]
  simp only [derivedRow, ne_eq, Option.some.injEq, Nat.div_eq_zero_iff]
  split <;> omega

/-- A tick that stays in the row moves the row-local time one on. -/
theorem State.Rendering.rowLocal_timerTick
    (same : derivedRow s.params (timerTick s).count = derivedRow s.params s.count) :
    (timerTick s).count = s.count + 1 ∧
      rowLocal s.params (timerTick s).count = rowLocal s.params s.count + 1 := by
  have counts : (timerTick s).count = s.count + 1 := by
    have swap := r.derivedRow_timerTick
    rw [r.count_timerTick] at same swap ⊢
    split
    · next wraps =>
      rw [if_pos wraps] at same swap
      obtain ⟨zero, other⟩ := swap.mpr wraps
      exact absurd (by rw [r.row, ← same, zero]) other
    · rfl
  refine ⟨counts, ?_⟩
  have above : derivedRow s.params s.count * s.params.tpr ≤ s.count := Nat.div_mul_le_self _ _
  rw [rowLocal, rowLocal, same, counts]
  omega

/-- A ticked display is in step for the pass it may trigger: in the same row more entries may be due than are past,
and another row is not yet current. -/
theorem State.Rendering.inStep_timerTick : (timerTick s).InStep := by
  intro current
  have same : derivedRow s.params (timerTick s).count = derivedRow s.params s.count :=
    (Option.some.inj (r.row.symm.trans current)).symm
  obtain ⟨-, later⟩ := r.rowLocal_timerTick same
  have schedule : (timerTick s).currentSchedule = s.currentSchedule := by
    change schedRow s.active (derivedRow s.params (timerTick s).count) = _
    rw [same]
    rfl
  rw [schedule]
  refine ⟨?_, ?_, fun i hi => ?_⟩
  · change s.rowPin.getD (derivedRow s.params (timerTick s).count) false = true
    rw [same]
    exact r.pin
  · change s.stepIdx ≤ s.currentSchedule.countP fun e => decide (e.time.toNat ≤ (timerTick s).count % s.params.tpr)
    rw [← rowLocal_eq_mod, later, r.past]
    exact countP_due_mono _ (Nat.le_succ _)
  · have due := r.due_iff hi
    exact (r.columns _ (List.getElem_mem hi)).trans
      (decide_eq_decide.mpr (show _ ↔ s.stepIdx ≤ i by omega))

/-- Short of the deadline a tick stays in the row, and no further entry falls due. -/
theorem State.Rendering.before_deadline (noWrap : s.count + 1 ≠ s.params.tpf)
    (noDeadline : s.count + 1 ≠ s.cc0.toNat) :
    derivedRow s.params (timerTick s).count = derivedRow s.params s.count ∧
      s.stepIdx = s.currentSchedule.countP fun e => decide (e.time.toNat ≤ rowLocal s.params s.count + 1) := by
  have count := s.count_eq
  have tpr := Params.tpr_pos r.inv.paramsOk
  have len := length_of_rowOk r.rowOk
  have times := ((rowOk_iff _ _).mp r.rowOk).2.2
  have inRow : rowLocal s.params s.count < s.params.tpr := by
    rw [rowLocal_eq_mod]
    exact Nat.mod_lt _ tpr
  have more : s.stepIdx ≤ s.currentSchedule.countP fun e => decide (e.time.toNat ≤ rowLocal s.params s.count + 1) := by
    rw [r.past]
    exact countP_due_mono _ (Nat.le_succ _)
  have few : (s.currentSchedule.countP fun e => decide (e.time.toNat ≤ rowLocal s.params s.count + 1)) ≤
      s.currentSchedule.length := List.countP_le_length
  have stays (inside : rowLocal s.params s.count + 1 < s.params.tpr) :
      derivedRow s.params (timerTick s).count = derivedRow s.params s.count := by
    rw [r.count_timerTick, if_neg noWrap]
    refine Nat.div_eq_of_lt_le ?_ ?_
    · omega
    · rw [Nat.succ_mul]
      omega
  rcases r.nextDeadline_spec with ⟨past, value⟩ | ⟨hi, value⟩
  · exact ⟨stays (by omega), by omega⟩
  · have later := (r.due_iff hi).not.mpr (lt_irrefl _)
    have within := times _ (List.getElem_mem hi)
    have due := due_iff_lt_countP (rowLocal s.params s.count + 1) _ r.sorted s.stepIdx hi
    exact ⟨stays (by omega), by omega⟩

/-- A tick that triggers no pass leaves the display rendering. -/
theorem State.Rendering.timerTick (noWrap : s.count + 1 ≠ s.params.tpf)
    (noDeadline : s.count + 1 ≠ s.cc0.toNat) : (timerTick s).Rendering := by
  obtain ⟨same, index⟩ := r.before_deadline noWrap noDeadline
  obtain ⟨-, later⟩ := r.rowLocal_timerTick same
  have quiet : ¬(Machine.timerTick s).irqLine = true := mt r.irqLine_timerTick.mp (by omega)
  have row : derivedRow (Machine.timerTick s).params (Machine.timerTick s).count =
      derivedRow s.params s.count := same
  have time : rowLocal (Machine.timerTick s).params (Machine.timerTick s).count =
      rowLocal s.params s.count + 1 := later
  have schedule : (Machine.timerTick s).currentSchedule = s.currentSchedule := by
    rw [State.currentSchedule, row]
    rfl
  exact {
    inv := r.inv.timerTick
    constructed := r.constructed
    counting := r.counting
    idle := r.idle
    unmasked := r.unmasked
    quiet := Bool.eq_false_iff.mpr quiet
    row := by rw [row]; exact r.row
    past := by rw [schedule, time]; exact index
    columns := by
      rw [schedule, time]
      intro e mem
      obtain ⟨i, hi, rfl⟩ := List.getElem_of_mem mem
      have due := r.due_iff hi
      have dueNext := due_iff_lt_countP (rowLocal s.params s.count + 1) _ r.sorted i hi
      exact (r.columns _ mem).trans (decide_eq_decide.mpr (by omega))
    pin := by rw [row]; exact r.pin
    deadline := by rw [row]; exact r.deadline }

end Rendering

theorem idealTick_of_take {s : State} (take : (timerTick s).take = true) :
    idealTick s = passOf (timerTick s) := if_pos take

theorem idealTick_of_noTake {s : State} (noTake : ¬(timerTick s).take = true) : idealTick s = timerTick s :=
  if_neg noTake

/-- Settles O41: a tick that requests the interrupt is followed by a pass of a display in step, and any other tick
changes the count alone. -/
theorem idealTickKeepsRendering : Obligations.IdealTickKeepsRendering := by
  intro s r
  have count := r.count_timerTick
  by_cases request : (timerTick s).irqLine = true
  · have swap := active_passOf r.inv.timerTick r.constructed r.idle
    have renders := r.inStep_timerTick.rendering_passOf r.inv.timerTick r.constructed r.idle r.unmasked
    rw [idealTick_of_take (r.take_timerTick.trans request)]
    refine ⟨renders, ?_, ?_, passOf_pending _, passOf_params _⟩
    · rw [State.count, passOf_tcount]
      exact count
    · rw [swap]
      exact if_congr r.derivedRow_timerTick rfl rfl
  · obtain ⟨noWrap, noDeadline⟩ := not_or.mp (mt r.irqLine_timerTick.mpr request)
    rw [idealTick_of_noTake (by rwa [r.take_timerTick])]
    exact ⟨r.timerTick noWrap noDeadline, count, (if_neg noWrap).symm, rfl, rfl⟩

/-! ### Windows, frames and commands (R174, R178) -/

/-- Settles O42: of the rows only the derived one has its pin high, and in it the lit entries are those not yet
due. -/
theorem idealRunLightsEachLedForItsTime : Obligations.IdealRunLightsEachLedForItsTime := by
  intro s rendering r hr e mem
  have count := s.count_eq
  have local_lt : rowLocal s.params s.count < s.params.tpr := by
    rw [rowLocal_eq_mod]
    exact Nat.mod_lt _ (Params.tpr_pos rendering.inv.paramsOk)
  have within := ((rowOk_iff _ _).mp (rowOk_schedRow rendering.inv.schedules.1 hr)).2.2 e mem
  rw [State.lit, rendering.constructed, Bool.true_and, Bool.and_eq_true]
  by_cases same : r = derivedRow s.params s.count
  · subst same
    rw [rendering.pin, rendering.columns e mem, decide_eq_true_eq, and_iff_right rfl]
    omega
  · refine iff_of_false (fun ⟨pin, _⟩ => same ?_) (fun ⟨above, below⟩ => same ?_)
    · exact Option.some.inj ((rendering.inv.loneRow r pin).symm.trans rendering.row)
    · refine (Nat.div_eq_of_lt_le above ?_).symm
      rw [Nat.succ_mul]
      omega

/-- Ideal ticks within the frame: the display renders, the count moves on, and nothing is published. -/
theorem State.Rendering.iterate_idealTick {s : State} (r : s.Rendering) {k : Nat}
    (inFrame : s.count + k < s.params.tpf) : (idealTick^[k] s).Rendering ∧ (idealTick^[k] s).count = s.count + k ∧
      (idealTick^[k] s).pending = s.pending ∧ (idealTick^[k] s).params = s.params := by
  induction k with
  | zero => exact ⟨r, rfl, rfl, rfl⟩
  | succ k ih =>
    obtain ⟨renders, count, pending, params⟩ := ih (by omega)
    obtain ⟨renders', count', -, pending', params'⟩ := idealTickKeepsRendering _ renders
    rw [Function.iterate_succ_apply']
    rw [count, params, if_neg (by omega)] at count'
    exact ⟨renders', count', pending'.trans pending, params'.trans params⟩

/-- Settles O43: the tick that ends the frame swaps, and it is at most a frame away. -/
theorem publishedScheduleIsActiveWithinAFrame : Obligations.PublishedScheduleIsActiveWithinAFrame := by
  intro s r
  have below := r.count_lt
  obtain ⟨renders, count, pending, params⟩ := r.iterate_idealTick (k := s.params.tpf - s.count - 1) (by omega)
  obtain ⟨renders', count', active', -⟩ := idealTickKeepsRendering _ renders
  have wraps : s.count + (s.params.tpf - s.count - 1) + 1 = s.params.tpf := by omega
  rw [count, params, if_pos wraps] at count' active'
  refine ⟨s.params.tpf - s.count - 1 + 1, by omega, by omega, ?_⟩
  rw [Function.iterate_succ_apply']
  exact ⟨active'.trans pending, count', renders'⟩

/-- The elements no part of the rendering state speaks of are free, as far as the invariant lets them be. -/
theorem State.Rendering.frame {s : State} (r : s.Rendering) {stage : Image} {pending : Schedule}
    {btnA btnB : Button} {samplerRun : Bool} {handles : Vector Handle 4} {result : Word} {code : Byte}
    {agenda : List Choice}
    (inv : State.Inv { s with
      stage := stage, pending := pending, btnA := btnA, btnB := btnB, samplerRun := samplerRun,
      handles := handles, result := result, statusErr := code, agenda := agenda }) :
    State.Rendering { s with
      stage := stage, pending := pending, btnA := btnA, btnB := btnB, samplerRun := samplerRun,
      handles := handles, result := result, statusErr := code, agenda := agenda } :=
  { r with inv := inv }

/-- A command other than CS_ENTER leaves the rendering state: no critical section is there to end, and DISP_NEW is
an error. -/
theorem State.Rendering.exec {s t : State} {i : Instr} (r : s.Rendering) (other : i ≠ .csEnter)
    (done : exec i s = .next t) : t.Rendering ∧ t.active = s.active := by
  have inv := r.inv.exec done
  rcases exec_cases done with ⟨e, _, rfl⟩ | ⟨_, rfl⟩ | ⟨_, rfl⟩ | ⟨_, _, rfl⟩ | ⟨_, off, _⟩ | ⟨_, _, rfl⟩ |
    ⟨_, _, rfl⟩ | ⟨enter | exit, _⟩
  · exact ⟨r.frame inv, rfl⟩
  · exact ⟨r.frame inv, rfl⟩
  · exact ⟨r.frame inv, rfl⟩
  · exact ⟨r.frame inv, rfl⟩
  · exact absurd r.constructed (Bool.eq_false_iff.mp off)
  · exact ⟨r.frame inv, rfl⟩
  · exact ⟨r.frame inv, rfl⟩
  · exact absurd enter other
  · rw [exit, exec_csExit_of_zero (by rw [r.unmasked]; rfl)] at done
    cases done
    exact ⟨r.frame inv, rfl⟩

/-- Settles O44: commands, samples and input changes write only what the rendering state does not speak of. -/
theorem cooperativeStepsKeepRendering : Obligations.CooperativeStepsKeepRendering := by
  refine fun s r => ⟨fun i t other done => r.exec other done, r.frame r.inv.samplerStep, fun k v => ?_⟩
  have inv := r.inv.envStep k v
  cases k <;> exact r.frame inv

/-! ### The first pass (R161) -/

/-- The row of a blank schedule has an entry of time 0 for every column (R35). -/
theorem schedRow_zeroSched (p : Params) {r : Nat} (hr : r < p.rows) :
    schedRow (zeroSched p) r = (List.range p.cols).map fun c => { time := 0, col := c } := by
  rw [schedRow, zeroSched, List.getD_replicate _ hr]

/-- A display that renders a blank schedule is dark (R35, R174). -/
theorem State.Rendering.lit_of_blank {s : State} (rendering : s.Rendering) (blank : s.active = zeroSched s.params)
    (r c : Nat) : s.lit r c = false := by
  refine Bool.eq_false_iff.mpr fun lit => ?_
  obtain ⟨-, hr, hc⟩ := rendering.inv.lit_inside lit
  have entry : (⟨0, c⟩ : Entry) ∈ schedRow s.active r := by
    rw [blank, schedRow_zeroSched _ hr]
    exact List.mem_map_of_mem (List.mem_range.mpr hc)
  obtain ⟨above, below⟩ := (idealRunLightsEachLedForItsTime s rendering r hr _ entry).mp lit
  exact absurd below above.not_gt

/-- In a blank row every entry is past, and the next deadline is the end of the row (R171). -/
theorem State.Rendering.stepIdx_of_blank {s : State} (r : s.Rendering) (blank : s.active = zeroSched s.params) :
    s.stepIdx = s.params.cols ∧
      s.cc0.toNat = derivedRow s.params s.count * s.params.tpr + s.params.tpr := by
  have all : s.stepIdx = s.params.cols := by
    rw [r.past, State.currentSchedule, blank, schedRow_zeroSched _ r.derivedRow_lt]
    simp [List.countP_map, Function.comp_def]
  refine ⟨all, ?_⟩
  rcases r.nextDeadline_spec with ⟨-, value⟩ | ⟨inRow, -⟩
  · exact value
  · have := length_of_rowOk r.rowOk
    omega

/-- What the first pass finds after DISP_NEW (R161). -/
theorem constructed_of_exec_dispNew {s t : State} (off : s.dispInit = false) (done : exec .dispNew s = .next t) :
    t.dispInit = true ∧ t.curRow = none ∧ t.tcount = 0 ∧ t.swpend = true ∧ t.seqPhase = s.seqPhase ∧
      t.csDepth = s.csDepth ∧ t.params = s.params ∧ t.pending = s.pending := by
  have constructed : t = s.constructDisplay.complete 0 :=
    (Host.Outcome.next.inj ((dispNewConstructsTheDisplayOnce.2 s).1 off |>.symm.trans done)).symm
  subst constructed
  exact ⟨rfl, rfl, rfl, rfl, rfl, rfl, rfl, rfl⟩

/-- Settles O40: DISP_NEW pends the interrupt with no row current, so the pass it triggers is a display in step that
swaps at count 0. -/
theorem firstPassStartsABlankFrame : Obligations.FirstPassStartsABlankFrame := by
  intro s t inv off unmasked idle done
  obtain ⟨on, noRow, count, pended, phase, depth, params, pending⟩ := constructed_of_exec_dispNew off done
  rw [idle] at phase
  rw [unmasked] at depth
  have inv' := inv.exec done
  have irq : t.irqLine = true := t.irqLine_iff.mpr (.inr (.inr pended))
  have take : t.take = true := t.take_iff.mpr ⟨phase, irq, depth⟩
  have first : derivedRow t.params t.count = 0 := by
    rw [State.count, count]
    exact Nat.zero_div _
  have swap : (passOf t).active = s.pending := by
    rw [active_passOf inv' on phase, if_pos ⟨first, by rw [noRow]; nofun⟩, pending]
  have renders : (passOf t).Rendering :=
    (State.inStep_of_ne (by rw [noRow]; nofun)).rendering_passOf inv' on phase depth
  have row : derivedRow (passOf t).params (passOf t).count = 0 := by
    rw [State.count, passOf_params, passOf_tcount]
    exact first
  have params' : (passOf t).params = s.params := (passOf_params t).trans params
  refine ⟨irq, t.enabled_seq_iff.mpr ⟨inv'.running, .inl take⟩, (State.enabled_host_sampler_of_take take).1,
    renders, by rw [renders.row, row], (passOf_tcount t).trans count, swap, fun blank => ?_⟩
  have dark : (passOf t).active = zeroSched (passOf t).params := by rw [swap, blank, params']
  obtain ⟨index, deadline⟩ := renders.stepIdx_of_blank dark
  rw [row, params', Nat.zero_mul, Nat.zero_add] at deadline
  exact ⟨params' ▸ index, deadline, renders.lit_of_blank dark⟩

end Sys2Proof.Machine
end

section
/-! The host procedures of 30_encoding.md section 5 and 44_scroll.md: what runs of cell writes paint (R109, R261), and
the columns that `trim` keeps (R262). -/

namespace Sys2Proof.Machine

/-! ### Runs of commands (R109) -/

theorem execAll_cons {i : Instr} {s t : State} (done : exec i s = .next t) (rest : List Instr) :
    execAll (i :: rest) s = execAll rest t := by
  rw [execAll, done]

theorem execAll_append {first : List Instr} {s t : State} (done : execAll first s = .next t)
    (rest : List Instr) : execAll (first ++ rest) s = execAll rest t := by
  induction first generalizing s with
  | nil => cases done; rfl
  | cons i first ih =>
    obtain ⟨u, ran⟩ := exists_exec i s
    rw [execAll_cons ran] at done
    rw [List.cons_append, execAll_cons ran, ih done]

/-- The state in which the staging image is `m` and the last command has completed with answer 0. -/
def State.staged (s : State) (m : Image) : State := { s with stage := m }.complete 0

/-- An index as an operand names that index (R101, R132). -/
theorem cellIndex_operandOf : ∀ i : Fin 5, cellIndex (operandOf i) = some i := by decide

theorem exec_writeCell (r c : Fin 5) (b : Byte) (s : State) :
    exec (writeCell r c b) s = .next (s.staged (imageSet s.stage r c b)) := by
  change execImgWrite (operandOf r) (operandOf c) b s = _
  rw [execImgWrite, cellIndex_operandOf, cellIndex_operandOf]
  rfl

/-- An image after the listed cells have been given their values of `v`, in order. -/
def paint (v : Fin 5 × Fin 5 → Byte) (cells : List (Fin 5 × Fin 5)) (m : Image) : Image :=
  cells.foldl (fun m cell => imageSet m cell.1 cell.2 (v cell)) m

theorem imageGet_paint (v : Fin 5 × Fin 5 → Byte) (cells : List (Fin 5 × Fin 5)) (m : Image) (r c : Fin 5) :
    imageGet (paint v cells m) r c = if (r, c) ∈ cells then v (r, c) else imageGet m r c := by
  induction cells generalizing m with
  | nil => simp [paint]
  | cons cell rest ih =>
    have step := ih (imageSet m cell.1 cell.2 (v cell))
    rw [paint, List.foldl_cons]
    refine step.trans ?_
    rw [imageGet_imageSet]
    by_cases later : (r, c) ∈ rest
    · rw [if_pos later, if_pos (List.mem_cons_of_mem _ later)]
    · by_cases here : (r, c) = cell
      · subst here
        simp [later]
      · have elsewhere : ¬(r = cell.1 ∧ c = cell.2) := fun ⟨row, col⟩ => here (Prod.ext row col)
        rw [if_neg later, if_neg elsewhere, if_neg (by simp [here, later])]

/-- A run of cell writes paints the cells (R132). -/
theorem execAll_writeCells (v : Fin 5 × Fin 5 → Byte) (cells : List (Fin 5 × Fin 5)) (s : State) (m : Image) :
    execAll (cells.map fun cell => writeCell cell.1 cell.2 (v cell)) (s.staged m) =
      .next (s.staged (paint v cells m)) := by
  induction cells generalizing m with
  | nil => rfl
  | cons cell rest ih =>
    rw [List.map_cons, execAll_cons (exec_writeCell _ _ _ _)]
    exact ih _

/-! ### SHOW_IMAGE and a column shifted in (R109, R261) -/

/-- `IMG_LOAD` writes the non-zero cells after the clear (R109). -/
theorem imgLoad_eq (m : Image) : imgLoad m = .imgClear ::
    (logicalCells.filter fun cell => decide (imageGet m cell.1 cell.2 ≠ 0)).map
      fun cell => writeCell cell.1 cell.2 (imageGet m cell.1 cell.2) := by
  rw [imgLoad]
  congr 1
  induction logicalCells with
  | nil => rfl
  | cons cell rest ih =>
    by_cases zero : imageGet m cell.1 cell.2 = 0
    · refine (List.filterMap_cons_none (by exact if_pos zero)).trans ?_
      rw [ih, List.filter_cons_of_neg (by simpa using zero)]
    · refine (List.filterMap_cons_some (by exact if_neg zero)).trans ?_
      rw [ih, List.filter_cons_of_pos (by simpa using zero), List.map_cons]

/-- Over a blank image the non-zero cells are the whole image. -/
theorem paint_nonzero (m : Image) : paint (fun cell => imageGet m cell.1 cell.2)
    (logicalCells.filter fun cell => decide (imageGet m cell.1 cell.2 ≠ 0)) zeroImage = m := by
  refine image_ext fun r c => ?_
  rw [imageGet_paint, imageGet_zeroImage]
  split
  · rfl
  · next absent =>
    by_contra nonzero
    exact absent (List.mem_filter.mpr ⟨mem_logicalCells _, decide_eq_true (Ne.symm nonzero)⟩)

theorem execAll_showImageOf {s : State} (on : s.dispInit = true) (m : Image) :
    execAll (showImageOf m) s = .next ({ s.staged m with pending := buildSchedule s.params m }.complete 0) := by
  have loaded : execAll (imgLoad m) s = .next (s.staged m) := by
    rw [imgLoad_eq, execAll_cons (t := s.staged zeroImage) rfl, execAll_writeCells, paint_nonzero]
  rw [showImageOf, execAll_append loaded, execAll_cons (exec_showImage_of_on (s := s.staged m) on)]
  rfl

/-- Shifting in a column moves every column one left and writes column 4 (R134, R261). -/
theorem execAll_shiftInColumn (s : State) (values : Fin 5 → Byte) : ∃ m,
    execAll (shiftInColumn values) s = .next (s.staged m) ∧
      ∀ r c : Fin 5, imageGet m r c =
        if h : c.val + 1 < 5 then imageGet s.stage r ⟨c.val + 1, h⟩ else values r := by
  have column : shiftInColumn values = .imgShiftLeft 1 ::
      ((List.finRange 5).map fun lr => (lr, (4 : Fin 5))).map
        fun cell => writeCell cell.1 cell.2 (values cell.1) := by
    rw [shiftInColumn, List.map_map]
    rfl
  refine ⟨paint (fun cell => values cell.1) ((List.finRange 5).map fun lr => (lr, (4 : Fin 5)))
    (imageShiftLeft s.stage 1), ?_, fun r c => ?_⟩
  · rw [column, execAll_cons (t := s.staged (imageShiftLeft s.stage 1)) rfl,
      execAll_writeCells fun cell => values cell.1]
  · have last : (r, c) ∈ (List.finRange 5).map (fun lr => (lr, (4 : Fin 5))) ↔ ¬c.val + 1 < 5 := by
      simp [Fin.ext_iff]
      omega
    rw [imageGet_paint, imageGet_imageShiftLeft]
    by_cases inside : c.val + 1 < 5
    · rw [if_neg (by rw [last]; exact not_not_intro inside), dif_pos inside, dif_pos inside]
    · rw [if_pos (last.mpr inside), dif_neg inside]

/-! ### trim (R262) -/

/-- What a strictly ordered list keeps when its front is dropped: what stands at or after some element that is not
dropped. -/
theorem mem_dropWhile_iff {α : Type} {before : α → α → Prop} {p : α → Bool} (irrefl : ∀ x, ¬before x x)
    (asymm : ∀ x y, before x y → ¬before y x) {l : List α} (ordered : l.Pairwise before) (x : α) :
    x ∈ l.dropWhile p ↔ x ∈ l ∧ ∃ a ∈ l, p a = false ∧ ¬before x a := by
  induction l with
  | nil => simp
  | cons y ys ih =>
    obtain ⟨first, ordered⟩ := List.pairwise_cons.mp ordered
    cases dropped : p y with
    | true =>
      rw [List.dropWhile_cons_of_pos dropped, ih ordered]
      constructor
      · rintro ⟨mem, a, memA, kept, notBefore⟩
        exact ⟨List.mem_cons_of_mem _ mem, a, List.mem_cons_of_mem _ memA, kept, notBefore⟩
      · rintro ⟨mem, a, memA, kept, notBefore⟩
        have memA : a ∈ ys := (List.mem_cons.mp memA).resolve_left fun same => by
          rw [same, dropped] at kept
          cases kept
        refine ⟨(List.mem_cons.mp mem).resolve_left fun same => ?_, a, memA, kept, notBefore⟩
        exact notBefore (same ▸ first a memA)
    | false =>
      rw [List.dropWhile_cons_of_neg (by simp [dropped])]
      refine ⟨fun mem => ⟨mem, y, List.mem_cons_self, dropped, ?_⟩, And.left⟩
      rcases List.mem_cons.mp mem with rfl | later
      · exact irrefl x
      · exact asymm y x (first x later)

/-- The columns left by the first half of `trim`, as its second half sees them. -/
theorem dropWhile_blank_descending (g : Image) :
    ((List.finRange 5).dropWhile (blankColumn g)).reverse.Pairwise (· > ·) :=
  List.pairwise_reverse.mpr ((List.pairwise_lt_finRange 5).sublist (List.dropWhile_sublist _))

/-- The columns `trim` keeps stand in ascending order. -/
theorem trim_ascending (g : Image) : (trim g).Pairwise (· < ·) :=
  List.pairwise_reverse.mpr ((dropWhile_blank_descending g).sublist (List.dropWhile_sublist _))

/-- `trim` keeps exactly the columns between two that are not blank. -/
theorem mem_trim_iff (g : Image) (j : Fin 5) : j ∈ trim g ↔
    ∃ a b, a ≤ j ∧ j ≤ b ∧ blankColumn g a = false ∧ blankColumn g b = false := by
  have all : ∀ x : Fin 5, x ∈ List.finRange 5 := List.mem_finRange
  have front (x : Fin 5) : x ∈ (List.finRange 5).dropWhile (blankColumn g) ↔
      ∃ a, blankColumn g a = false ∧ a ≤ x := by
    rw [mem_dropWhile_iff lt_irrefl (fun _ _ => lt_asymm) (List.pairwise_lt_finRange 5)]
    simp [all]
  have ordered := dropWhile_blank_descending g
  rw [trim, List.mem_reverse, mem_dropWhile_iff (before := (· > ·)) lt_irrefl (fun _ _ => lt_asymm) ordered]
  simp only [List.mem_reverse, front, not_lt]
  constructor
  · rintro ⟨⟨a, inkA, le⟩, b, -, inkB, ge⟩
    exact ⟨a, b, le, ge, inkA, inkB⟩
  · rintro ⟨a, b, le, ge, inkA, inkB⟩
    exact ⟨⟨a, inkA, le⟩, b, ⟨b, inkB, le_rfl⟩, inkB, ge⟩

theorem blankColumn_iff (g : Image) (j : Fin 5) : blankColumn g j = true ↔ ∀ lr, imageGet g lr j = 0 := by
  simp [blankColumn]

/-- Settles O54: the two procedures as runs of cell writes, and the two ends of `trim`. -/
theorem hostProceduresBuildTheirImages : Obligations.HostProceduresBuildTheirImages := by
  refine ⟨fun s m on => execAll_showImageOf on m, fun g => ⟨trim_ascending g, mem_trim_iff g⟩, blankColumn_iff,
    fun s values => ?_⟩
  obtain ⟨m, done, cells⟩ := execAll_shiftInColumn s values
  exact ⟨_, done, rfl, cells⟩

end Sys2Proof.Machine
end

section
/-! Runs of the machine over listed choices (20_memory.md section 3, 44_scroll.md): a waiting interrupt is taken before
any cooperative step (R82, R275), a host program is interleaved with the other agents (R260), and a suspension of
ideal ticks shows the published image (R264). -/

namespace Sys2Proof.Machine

theorem State.Inv.withAgenda {s : State} (inv : s.Inv) (rest : List Choice) :
    State.Inv { s with agenda := rest } := inv.frame inv.codeDefined

/-! ### A waiting interrupt (R82, R275, R277 (c)) -/

/-- In `t` an interrupt is still to be taken, and what the HOST sees of the block is as in `s`. -/
structure State.Awaits (s t : State) : Prop where
  inv : t.Inv
  take : t.take = true
  stage : t.stage = s.stage
  handles : t.handles = s.handles
  result : t.result = s.result
  statusErr : t.statusErr = s.statusErr

theorem State.Awaits.trans {s t u : State} (first : s.Awaits t) (second : t.Awaits u) : s.Awaits u where
  inv := second.inv
  take := second.take
  stage := second.stage.trans first.stage
  handles := second.handles.trans first.handles
  result := second.result.trans first.result
  statusErr := second.statusErr.trans first.statusErr

section Waiting

variable {s : State} (inv : s.Inv) (take : s.take = true)
include inv take

/-- A tick sets events and clears none (R165). -/
theorem State.awaits_timerTick (rest : List Choice) : s.Awaits (timerTick { s with agenda := rest }) := by
  obtain ⟨idle, request, unmasked⟩ := s.take_iff.mp take
  have ticked : (timerTick { s with agenda := rest }).irqLine = true := by
    refine (State.irqLine_iff _).mpr ((s.irqLine_iff.mp request).imp (fun ⟨ev0, on⟩ => ⟨?_, on⟩)
      (Or.imp_left fun ⟨ev1, on⟩ => ⟨?_, on⟩))
    · exact Bool.or_eq_true_iff.mpr (.inl ev0)
    · exact Bool.or_eq_true_iff.mpr (.inl ev1)
  exact {
    inv := (inv.withAgenda rest).timerTick
    take := (State.take_iff _).mpr ⟨idle, ticked, unmasked⟩
    stage := rfl, handles := rfl, result := rfl, statusErr := rfl }

theorem State.awaits_withAgenda (rest : List Choice) : s.Awaits { s with agenda := rest } where
  inv := inv.withAgenda rest
  take := take
  stage := rfl
  handles := rfl
  result := rfl
  statusErr := rfl

theorem State.awaits_envStep (k : ButtonId) (v : Bool) (rest : List Choice) :
    s.Awaits (envStep k v { s with agenda := rest }) := by
  have kept := (inv.withAgenda rest).envStep k v
  cases k <;> exact { inv := kept, take := take, stage := rfl, handles := rfl, result := rfl, statusErr := rfl }

/-- A tick or an input change leaves the interrupt waiting, whether or not the timer runs. -/
theorem step_awaits {x : Choice} {rest : List Choice} (other : x = .timer ∨ ∃ k v, x = .env k v)
    (listed : s.agenda = x :: rest) : ∃ t, step s = .next t ∧ s.Awaits t ∧ t.agenda = rest := by
  have run := step_of_running inv.paramsOk inv.running listed
  rcases other with rfl | ⟨k, v, rfl⟩
  · simp only [agentStep, settleOutcome, stepIfEnabled] at run
    split at run
    · have ticked := State.awaits_timerTick inv take rest
      rw [ticked.inv.settle] at run
      exact ⟨_, run, ticked, rfl⟩
    · have passed := State.awaits_withAgenda inv take rest
      rw [passed.inv.settle] at run
      exact ⟨_, run, passed, rfl⟩
  · have changed := State.awaits_envStep inv take k v rest
    have enabled : State.enabled { s with agenda := rest } .env = true := (State.enabled_env_iff _).mpr inv.running
    rw [agentStep, stepIfEnabled, if_pos enabled, settleOutcome, changed.inv.settle] at run
    exact ⟨_, run, changed, by cases k <;> rfl⟩

/-- Any number of ticks and input changes leave the interrupt waiting. -/
theorem run_awaits {cs rest : List Choice} (others : ∀ x ∈ cs, x = .timer ∨ ∃ k v, x = .env k v)
    (listed : s.agenda = cs ++ rest) :
    ∃ t, Sys2Proof.core.run cs.length s = .next t ∧ s.Awaits t ∧ t.agenda = rest := by
  induction cs generalizing s with
  | nil => exact ⟨s, rfl, ⟨inv, take, rfl, rfl, rfl, rfl⟩, listed⟩
  | cons x cs ih =>
    obtain ⟨u, stepped, awaits, agenda⟩ := step_awaits inv take (others x List.mem_cons_self) listed
    obtain ⟨t, ran, awaits', agenda'⟩ :=
      ih awaits.inv awaits.take (fun y mem => others y (List.mem_cons_of_mem _ mem)) agenda
    exact ⟨t, (core_run_of_step _ stepped).trans ran, awaits.trans awaits', agenda'⟩

/-- The take: the sequencer's own choice is used up, and a cooperative one goes on waiting (R82). -/
theorem step_takes {c : Choice} {rest : List Choice} (chosen : c = .seq ∨ c = .sampler ∨ ∃ op, c = .host op)
    (listed : s.agenda = c :: rest) :
    step s = .next { s with agenda := if c = .seq then rest else c :: rest, seqPhase := .entry } := by
  obtain ⟨idle, request, -⟩ := s.take_iff.mp take
  have enabled : s.enabled .seq = true := s.enabled_seq_iff.mpr ⟨inv.running, .inl take⟩
  have on := inv.on_of_enabled_seq enabled
  rcases chosen with rfl | cooperative
  · obtain ⟨-, -, seq, -⟩ := enabledAgentTakesItsStep s rest inv.paramsOk
    have entered : State.Inv { s with agenda := rest, seqPhase := .entry } :=
      (inv.withAgenda rest).enterPhase on (by nofun)
    rw [seq enabled listed, seqStep_of_idle (s := { s with agenda := rest }) idle]
    exact congrArg Host.Outcome.next entered.settle
  · obtain ⟨waits, -⟩ := sequencerGoesBeforeCooperativeSteps s c rest inv.paramsOk inv.running listed
    have other : c ≠ .seq := by rcases cooperative with rfl | ⟨op, rfl⟩ <;> nofun
    rw [waits cooperative enabled, seqStep_of_idle idle, if_neg other, ← listed]
    exact congrArg Host.Outcome.next (State.Inv.settle (inv.enterPhase on (by nofun)))

end Waiting

/-- Settles O58: the choices before the take leave the interrupt waiting, and the next one takes it. -/
theorem pendingInterruptIsTakenBeforeCooperativeSteps :
    Obligations.PendingInterruptIsTakenBeforeCooperativeSteps := by
  intro s cs c rest inv take others chosen listed
  obtain ⟨t, ran, awaits, agenda⟩ := run_awaits inv take others listed
  obtain ⟨-, -, unmasked⟩ := t.take_iff.mp awaits.take
  have taken := core_run_of_step 0 (step_takes awaits.inv awaits.take chosen agenda)
  exact ⟨_, (core_run_add ran).trans taken, rfl, unmasked, awaits.stage, awaits.handles, awaits.result,
    awaits.statusErr, rfl⟩

/-! ### A program beside the other agents (R260) -/

theorem besideHost_iff (c : Choice) : besideHost c = true ↔
    c = .timer ∨ c = .seq ∨ c = .sampler ∨ ∃ k v, c = .env k v := by
  cases c <;> simp [besideHost]

theorem hostOp?_of_besideHost {c : Choice} (beside : besideHost c = true) : hostOp? c = none := by
  rcases (besideHost_iff c).mp beside with rfl | rfl | rfl | ⟨k, v, rfl⟩ <;> rfl

theorem HostAct.hostAccesses_choices (p : Params) (interval : List Choice) (l : HostAct) :
    hostAccesses (l.choices p interval) = (l.op? p).toList := by
  unfold HostAct.choices
  split
  · next op access => rw [hostAccesses_append, hostAccesses_quietInterval, access]; rfl
  · next access => rw [hostAccesses_quietInterval, access]; rfl

/-- The HOST's accesses of a program are those of its lines, in order (R108). -/
theorem hostAccesses_programAgenda (p : Params) (lines : List HostAct) (intervals : List (List Choice)) :
    hostAccesses (programAgenda p lines intervals) = lines.filterMap fun l => l.op? p := by
  induction lines generalizing intervals with
  | nil => rw [programAgenda_nil, hostAccesses_quietInterval]; rfl
  | cons l rest ih =>
    rw [programAgenda, hostAccesses_append, ih, HostAct.hostAccesses_choices, List.filterMap_cons]
    cases l.op? p <;> rfl

/-- A choice of a program is another agent's or a HOST access: no reset stands among them. -/
theorem mem_programAgenda {p : Params} {lines : List HostAct} {intervals : List (List Choice)} {c : Choice}
    (mem : c ∈ programAgenda p lines intervals) : besideHost c = true ∨ ∃ op, c = .host op := by
  induction lines generalizing intervals with
  | nil =>
    rw [programAgenda_nil, quietInterval, List.mem_filter] at mem
    exact .inl mem.2
  | cons l rest ih =>
    rw [programAgenda, List.mem_append, HostAct.mem_choices] at mem
    rcases mem with (⟨-, beside⟩ | ⟨op, -, host⟩) | later
    · exact .inl beside
    · exact .inr ⟨op, host⟩
    · exact ih later

/-- Choices without a HOST access are other agents' steps. -/
theorem quiet_of_hostAccesses_nil {cs : List Choice} (known : ∀ c ∈ cs, besideHost c = true ∨ ∃ op, c = .host op)
    (none : hostAccesses cs = []) : quietInterval cs = cs := by
  refine quietInterval_eq_self fun c mem => (known c mem).resolve_right ?_
  rintro ⟨op, rfl⟩
  have := List.filterMap_eq_nil_iff.mp none _ mem
  cases this

/-- The first HOST access comes after steps of other agents only. -/
theorem exists_first_access {cs : List Choice} {op : HostOp} {ops : List HostOp}
    (known : ∀ c ∈ cs, besideHost c = true ∨ ∃ op, c = .host op) (accesses : hostAccesses cs = op :: ops) :
    ∃ before after, cs = before ++ .host op :: after ∧ quietInterval before = before ∧
      hostAccesses after = ops := by
  induction cs with
  | nil => cases accesses
  | cons c cs ih =>
    rcases known c List.mem_cons_self with beside | ⟨op', rfl⟩
    · have silent : hostAccesses (c :: cs) = hostAccesses cs :=
        List.filterMap_cons_none (hostOp?_of_besideHost beside)
      obtain ⟨before, after, rfl, quiet, later⟩ :=
        ih (fun d mem => known d (List.mem_cons_of_mem _ mem)) (silent.symm.trans accesses)
      refine ⟨c :: before, after, rfl, ?_, later⟩
      exact (List.filter_cons_of_pos beside).trans (congrArg (c :: ·) quiet)
    · obtain ⟨rfl, later⟩ := List.cons.inj accesses
      exact ⟨[], cs, rfl, rfl, later⟩

/-- Choices with the accesses of a program's lines are the program's, with what stands before each access as the
interval of its line. -/
theorem exists_intervals {p : Params} {lines : List HostAct} {cs : List Choice}
    (known : ∀ c ∈ cs, besideHost c = true ∨ ∃ op, c = .host op)
    (accesses : hostAccesses cs = lines.filterMap fun l => l.op? p) :
    ∃ intervals, programAgenda p lines intervals = cs := by
  induction lines generalizing cs with
  | nil => exact ⟨[cs], quiet_of_hostAccesses_nil known accesses⟩
  | cons l rest ih =>
    cases access : l.op? p with
    | none =>
      rw [List.filterMap_cons_none access] at accesses
      obtain ⟨intervals, agenda⟩ := ih known accesses
      refine ⟨[] :: intervals, ?_⟩
      rw [programAgenda_cons, HostAct.choices, access, agenda]
      rfl
    | some op =>
      rw [List.filterMap_cons_some access] at accesses
      obtain ⟨before, after, rfl, quiet, later⟩ := exists_first_access known accesses
      obtain ⟨intervals, agenda⟩ :=
        ih (fun c mem => known c (List.mem_append_right _ (List.mem_cons_of_mem _ mem))) later
      refine ⟨before :: intervals, ?_⟩
      rw [programAgenda_cons, HostAct.choices, access, agenda, quiet, List.append_assoc]
      rfl

/-- Settles O59: the choices of a program and their accesses, and the intervals that give such a list. -/
theorem programInterleavesWithEveryOtherAgent : Obligations.ProgramInterleavesWithEveryOtherAgent := by
  intro p lines cs
  simp only [← besideHost_iff]
  constructor
  · rintro ⟨intervals, rfl⟩
    exact ⟨fun c mem => mem_programAgenda mem, hostAccesses_programAgenda p lines intervals⟩
  · rintro ⟨known, accesses⟩
    exact exists_intervals known accesses

end Sys2Proof.Machine
end

section
/-! Ideal intervals as runs of the machine (R174, R264): no agent reads the agenda, so the choices of an ideal tick
run that tick, and after a SHOW and a frame of them the shown image is active. -/

namespace Sys2Proof.Machine

/-! ### No agent reads the agenda (log entry 1) -/

theorem mainPhase_withAgenda (s : State) (rest : List Choice) :
    mainPhase { s with agenda := rest } = { mainPhase s with agenda := rest } := by
  unfold mainPhase stepThree
  dsimp only
  split
  · rfl
  · split <;> rfl

theorem programPhase_of_some {s : State} {v : Nat} (found : (s.curRow.bind fun r => nextDeadline r s) = some v) :
    programPhase s = { s with cc0 := BitVec.ofNat 32 v, trun := true, seqPhase := .check } := by
  rw [programPhase, found]

theorem programPhase_of_none {s : State} (missing : (s.curRow.bind fun r => nextDeadline r s) = none) :
    programPhase s = s.raiseFault .invariantBroken := by
  rw [programPhase, missing]

theorem programPhase_withAgenda (s : State) (rest : List Choice) :
    programPhase { s with agenda := rest } = { programPhase s with agenda := rest } := by
  cases deadline : s.curRow.bind fun r => nextDeadline r s with
  | some v =>
    rw [programPhase_of_some deadline, programPhase_of_some (s := { s with agenda := rest }) deadline]
  | none =>
    rw [programPhase_of_none deadline, programPhase_of_none (s := { s with agenda := rest }) deadline]
    rfl

theorem checkPhase_withAgenda (s : State) (rest : List Choice) :
    checkPhase { s with agenda := rest } = { checkPhase s with agenda := rest } := by
  by_cases reached : s.cc0.toNat ≤ s.tcount.toNat ∧ s.irqLine = false
  · rw [checkPhase_of_reached reached]
    exact if_pos reached
  · rw [checkPhase, checkPhase, if_neg reached]
    exact if_neg reached

theorem seqStep_withAgenda (s : State) (rest : List Choice) :
    seqStep { s with agenda := rest } = { seqStep s with agenda := rest } := by
  obtain ⟨p, phase⟩ : ∃ p, s.seqPhase = p := ⟨_, rfl⟩
  cases p with
  | idle => rw [seqStep_of_idle phase, seqStep_of_idle (s := { s with agenda := rest }) phase]; rfl
  | entry => rw [seqStep_of_entry phase, seqStep_of_entry (s := { s with agenda := rest }) phase]; rfl
  | main =>
    rw [seqStep_of_main phase, seqStep_of_main (s := { s with agenda := rest }) phase, mainPhase_withAgenda]
  | program =>
    rw [seqStep_of_program phase, seqStep_of_program (s := { s with agenda := rest }) phase,
      programPhase_withAgenda]
  | check =>
    rw [seqStep_of_check phase, seqStep_of_check (s := { s with agenda := rest }) phase, checkPhase_withAgenda]

theorem seqSteps_withAgenda (k : Nat) (s : State) (rest : List Choice) :
    seqSteps k { s with agenda := rest } = { seqSteps k s with agenda := rest } := by
  induction k generalizing s with
  | zero => rfl
  | succ k ih => rw [seqSteps, seqStep_withAgenda, ih, seqSteps]

/-! ### Choices of the sequencer (R82) -/

/-- While the sequencer has a step, its choices run its steps. -/
theorem run_seq_of_enabled {s : State} {k : Nat} {rest : List Choice} (inv : s.Inv)
    (enabled : ∀ j < k, (seqSteps j s).enabled .seq = true)
    (listed : s.agenda = List.replicate k .seq ++ rest) :
    Sys2Proof.core.run k s = .next { seqSteps k s with agenda := rest } := by
  induction k generalizing s with
  | zero => rw [← show s.agenda = rest from listed]; rfl
  | succ k ih =>
    have now : s.enabled .seq = true := enabled 0 k.succ_pos
    have next : (seqStep s).Inv := inv.seqStep (inv.on_of_enabled_seq now)
    obtain ⟨-, -, seq, -⟩ := enabledAgentTakesItsStep s (List.replicate k .seq ++ rest) inv.paramsOk
    have stepped := seq now listed
    rw [seqStep_withAgenda, (next.withAgenda _).settle] at stepped
    rw [core_run_of_step k stepped]
    refine (ih (next.withAgenda _) (fun j few => ?_) rfl).trans ?_
    · rw [seqSteps_withAgenda, State.enabled_withAgenda]
      exact enabled (j + 1) (Nat.succ_lt_succ few)
    · rw [seqSteps_withAgenda]
      rfl

/-- Where the sequencer has no step, its choices pass (log entry 1). -/
theorem run_seq_of_disabled {s : State} (k : Nat) {rest : List Choice} (inv : s.Inv)
    (disabled : s.enabled .seq = false) (listed : s.agenda = List.replicate k .seq ++ rest) :
    Sys2Proof.core.run k s = .next { s with agenda := rest } := by
  induction k generalizing s with
  | zero => rw [← show s.agenda = rest from listed]; rfl
  | succ k ih =>
    obtain ⟨-, passes⟩ := sequencerGoesBeforeCooperativeSteps s .seq (List.replicate k Choice.seq ++ rest)
      inv.paramsOk inv.running listed
    have stepped := passes .seq rfl disabled disabled
    rw [(inv.withAgenda _).settle] at stepped
    rw [core_run_of_step k stepped]
    exact ih (inv.withAgenda _) ((s.enabled_withAgenda _ _).trans disabled) rfl

/-- Through the five steps of a pass the sequencer has a step: the take, and then a phase other than IDLE. -/
theorem enabled_seqSteps_of_take {s : State} (inv : s.Inv) (take : s.take = true) :
    ∀ j < 5, (seqSteps j s).enabled .seq = true := by
  obtain ⟨idle, -, -⟩ := s.take_iff.mp take
  have enabled : s.enabled .seq = true := s.enabled_seq_iff.mpr ⟨inv.running, .inl take⟩
  have kept := inv.seqSteps (inv.on_of_enabled_seq enabled)
  have running {j : Nat} (phase : (seqSteps j s).seqPhase ≠ .idle) : (seqSteps j s).enabled .seq = true :=
    (State.enabled_seq_iff _).mpr ⟨(kept j).running, .inr phase⟩
  have entry : (seqSteps 1 s).seqPhase = .entry := by
    change (seqStep s).seqPhase = .entry
    rw [seqStep_of_idle idle]
    rfl
  have main : (seqSteps 2 s).seqPhase = .main := by
    change (seqStep (seqSteps 1 s)).seqPhase = .main
    rw [seqStep_of_entry entry]
    rfl
  have program : (seqSteps 3 s).seqPhase = .program := by
    change (seqStep (seqSteps 2 s)).seqPhase = .program
    rw [seqStep_main_eq (kept 2) main]
  have check : (seqSteps 4 s).seqPhase = .check := seqPhase_seqStep_of_program (kept 3) program
  intro j few
  match j, few with
  | 0, _ => exact enabled
  | 1, _ => exact running (by rw [entry]; nofun)
  | 2, _ => exact running (by rw [main]; nofun)
  | 3, _ => exact running (by rw [program]; nofun)
  | 4, _ => exact running (by rw [check]; nofun)

/-! ### An ideal interval (R174, R264) -/

theorem State.Rendering.withAgenda {s : State} (r : s.Rendering) (rest : List Choice) :
    State.Rendering { s with agenda := rest } := r.frame (r.inv.withAgenda rest)

theorem idealTick_withAgenda (s : State) (rest : List Choice) :
    idealTick { s with agenda := rest } = { idealTick s with agenda := rest } := by
  by_cases take : (timerTick s).take = true
  · rw [idealTick_of_take take, idealTick_of_take (s := { s with agenda := rest }) take]
    exact seqSteps_withAgenda 5 (timerTick s) rest
  · rw [idealTick_of_noTake take, idealTick_of_noTake (s := { s with agenda := rest }) take]
    rfl

theorem iterate_idealTick_withAgenda (n : Nat) (s : State) (rest : List Choice) :
    idealTick^[n] { s with agenda := rest } = { idealTick^[n] s with agenda := rest } := by
  induction n generalizing s with
  | zero => rfl
  | succ n ih => rw [Function.iterate_succ_apply, idealTick_withAgenda, ih, Function.iterate_succ_apply]

@[simp] theorem idealTick_stage (s : State) : (idealTick s).stage = s.stage := by
  unfold idealTick
  split
  · exact passOf_stage _
  · rfl

/-- The six choices of an ideal tick run it: the tick, and five steps of the pass or five that pass. -/
theorem run_idealTick {s : State} {rest : List Choice} (r : s.Rendering)
    (listed : s.agenda = [.timer, .seq, .seq, .seq, .seq, .seq] ++ rest) :
    Sys2Proof.core.run 6 s = .next { idealTick s with agenda := rest } := by
  have enabled : s.enabled .timer = true := s.enabled_timer_iff.mpr ⟨r.inv.running, r.counting⟩
  obtain ⟨tick, -⟩ := enabledAgentTakesItsStep s (List.replicate 5 .seq ++ rest) r.inv.paramsOk
  have ticked := (r.inv.withAgenda (List.replicate 5 .seq ++ rest)).timerTick
  have stepped := tick enabled listed
  rw [ticked.settle] at stepped
  rw [core_run_of_step 5 stepped]
  by_cases take : (timerTick s).take = true
  · rw [run_seq_of_enabled ticked (enabled_seqSteps_of_take ticked take) rfl, idealTick_of_take take]
    exact congrArg (fun t : State => Host.Outcome.next { t with agenda := rest })
      (seqSteps_withAgenda 5 (timerTick s) _)
  · have quiet : (timerTick s).irqLine = false :=
      Bool.eq_false_iff.mpr fun request => take (r.take_timerTick.trans request)
    rw [run_seq_of_disabled 5 ticked (State.enabled_seq_of_quiet r.idle quiet) rfl, idealTick_of_noTake take]
    rfl

/-- An ideal interval runs its ticks. -/
theorem run_idealInterval {s : State} {n : Nat} {rest : List Choice} (r : s.Rendering)
    (listed : s.agenda = idealInterval n ++ rest) :
    Sys2Proof.core.run (6 * n) s = .next { idealTick^[n] s with agenda := rest } := by
  induction n generalizing s with
  | zero => rw [← show s.agenda = rest from listed]; rfl
  | succ n ih =>
    rw [idealInterval_succ, List.append_assoc] at listed
    obtain ⟨renders, -⟩ := idealTickKeepsRendering s r
    rw [Nat.mul_succ, Nat.add_comm, core_run_add (run_idealTick r listed), ih (renders.withAgenda _) rfl,
      iterate_idealTick_withAgenda, Function.iterate_succ_apply]

/-- Over any number of ideal ticks the display renders, nothing is published or staged, and a published schedule
that is active stays so. -/
theorem State.Rendering.iterate {s : State} (r : s.Rendering) (n : Nat) :
    (idealTick^[n] s).Rendering ∧ (idealTick^[n] s).pending = s.pending ∧ (idealTick^[n] s).stage = s.stage ∧
      (s.active = s.pending → (idealTick^[n] s).active = s.pending) := by
  induction n with
  | zero => exact ⟨r, rfl, rfl, id⟩
  | succ n ih =>
    obtain ⟨renders, pending, stage, stays⟩ := ih
    obtain ⟨renders', -, active', pending', -⟩ := idealTickKeepsRendering _ renders
    rw [Function.iterate_succ_apply']
    refine ⟨renders', pending'.trans pending, (idealTick_stage _).trans stage, fun published => ?_⟩
    rw [active', pending, stays published, ite_self]

/-- After a frame of ideal ticks or more the published schedule is active (R178). -/
theorem State.Rendering.active_iterate {s : State} (r : s.Rendering) {n : Nat} (frame : s.params.tpf ≤ n) :
    (idealTick^[n] s).active = s.pending := by
  obtain ⟨k, -, inFrame, swapped, -, renders⟩ := publishedScheduleIsActiveWithinAFrame s r
  obtain ⟨-, pending, -⟩ := r.iterate k
  obtain ⟨-, -, -, stays⟩ := renders.iterate (n - k)
  rw [pending] at stays
  rw [← Nat.sub_add_cancel (inFrame.trans frame), Function.iterate_add_apply]
  exact stays swapped

/-- A SHOW that is the next choice of a rendering display publishes the staging image, and the display goes on
rendering (R140, R162). -/
theorem State.Rendering.step_show {s : State} {rest : List Choice} (r : s.Rendering)
    (listed : s.agenda = .host (.write s.params.blockBase 4 (encode .showImage)) :: rest) :
    ∃ t, step s = .next t ∧ t.Rendering ∧ t.pending = buildSchedule s.params s.stage ∧ t.stage = s.stage ∧
      t.params = s.params ∧ t.agenda = rest := by
  have enabled := State.enabled_host_of_quiet r.inv.running r.idle r.quiet
  have run := (stepRunsTheDecodedCommand s _ _ rest r.inv.paramsOk enabled (decode_encode .showImage)).1 listed
  have done := exec_showImage_of_on (s := { s with agenda := rest }) r.constructed
  obtain ⟨renders, -⟩ := (r.withAgenda rest).exec (by nofun) done
  rw [done, settleOutcome, renders.inv.settle] at run
  exact ⟨_, run, renders, rfl, rfl, rfl, rfl⟩

/-- Settles O60: the SHOW publishes, and the suspension is at least a frame of ideal ticks. -/
theorem shownImageIsActiveAfterTheSuspension : Obligations.ShownImageIsActiveAfterTheSuspension := by
  intro s n rest intervals r frame listed
  simp only [programAgenda_cons, HostAct.choices_cmd, HostAct.choices_suspend, quietInterval_nil,
    quietInterval_idealInterval, List.nil_append, List.singleton_append] at listed
  obtain ⟨shown, stepped, renders, pending, stage, params, agenda⟩ := r.step_show listed
  obtain ⟨renders', -, stage', -⟩ := renders.iterate n
  have active := renders.active_iterate (params.symm ▸ frame)
  refine ⟨_, ?_, renders'.withAgenda (programAgenda s.params rest intervals), active.trans pending, stage'.trans stage, rfl⟩
  rw [Nat.add_comm, core_run_of_step _ stepped, run_idealInterval renders agenda]

end Sys2Proof.Machine
end
